-- ==== Sys2Proof/Word.lean ====
section
/-! DEFINITION. The word types of CORE (00_scope.md R5, R6): every value is an unsigned number of a
stated width. `v[hi:lo]` of the spec is `v.extractLsb' lo (hi - lo + 1)`, and `a ‖ b` is `a ++ b`. -/

namespace Sys2Proof

/-- One input or output symbol, `SYM_W` = 8 bits (00_scope.md R5; 20_memory.md R51). -/
abbrev Sym := BitVec 8

/-- The base64 group word, `GRP_W` = 24 bits (00_scope.md R5). -/
abbrev Group := BitVec 24

/-- One base64 digit value, `SEXT_W` = 6 bits (00_scope.md R5). -/
abbrev Sextet := BitVec 6

/-- One hex digit value, `NIB_W` = 4 bits (00_scope.md R5). -/
abbrev Nibble := BitVec 4

/-- A command word, 12 bits (30_encoding.md R81). -/
abbrev Cmd := BitVec 12

/-- A command at a unit's own port: its low 10 bits, `kind ‖ data` (30_encoding.md R81). -/
abbrev PortCmd := BitVec 10

/-- A command word in its 16-bit container (30_encoding.md R82; 95_test_vectors.md Part 4). -/
abbrev Word := BitVec 16

end Sys2Proof
end

