-- ==== Sys2Proof/Syntax.lean ====
section
/-! DEFINITION. The 12 commands of CORE, one constructor per row of the opcode map
(30_encoding.md R80, R85; spec/opcode_table.json). -/

namespace Sys2Proof

/-- The four units (00_scope.md R1), in the order of the `unit` field (30_encoding.md R81). -/
inductive UnitId where
  | b64e
  | b64d
  | hexe
  | hexd
  deriving DecidableEq, Repr

/-- The three kinds of command (30_encoding.md R80). -/
inductive Kind where
  | nop
  | data
  | fin
  deriving DecidableEq, Repr

/-- A command addressed to one unit. The only operand is the 8-bit immediate `data` of DATA; NOP and
END have none, since every value of their `data` field selects the same command (R83). -/
inductive Instr where
  /-- `B64E.NOP` (40_b64_encoder.md R104) -/
  | b64eNop
  /-- `B64E.DATA arg` (R105) -/
  | b64eData (arg : Sym)
  /-- `B64E.END` (R106) -/
  | b64eEnd
  /-- `B64D.NOP` (41_b64_decoder.md R132) -/
  | b64dNop
  /-- `B64D.DATA arg` (R133) -/
  | b64dData (arg : Sym)
  /-- `B64D.END` (R134) -/
  | b64dEnd
  /-- `HEXE.NOP` (42_hex_encoder.md R152) -/
  | hexeNop
  /-- `HEXE.DATA arg` (R153) -/
  | hexeData (arg : Sym)
  /-- `HEXE.END` (R154) -/
  | hexeEnd
  /-- `HEXD.NOP` (43_hex_decoder.md R167) -/
  | hexdNop
  /-- `HEXD.DATA arg` (R168) -/
  | hexdData (arg : Sym)
  /-- `HEXD.END` (R169) -/
  | hexdEnd
  deriving DecidableEq, Repr

/-- The unit that executes a command (30_encoding.md R81, R93). -/
def Instr.unit : Instr → UnitId
  | .b64eNop => .b64e
  | .b64eData _ => .b64e
  | .b64eEnd => .b64e
  | .b64dNop => .b64d
  | .b64dData _ => .b64d
  | .b64dEnd => .b64d
  | .hexeNop => .hexe
  | .hexeData _ => .hexe
  | .hexeEnd => .hexe
  | .hexdNop => .hexd
  | .hexdData _ => .hexd
  | .hexdEnd => .hexd

/-- The kind of a command (30_encoding.md R80, R81). -/
def Instr.kind : Instr → Kind
  | .b64eNop => .nop
  | .b64eData _ => .data
  | .b64eEnd => .fin
  | .b64dNop => .nop
  | .b64dData _ => .data
  | .b64dEnd => .fin
  | .hexeNop => .nop
  | .hexeData _ => .data
  | .hexeEnd => .fin
  | .hexdNop => .nop
  | .hexdData _ => .data
  | .hexdEnd => .fin

end Sys2Proof
end

