-- ==== Sys2Proof/Machine/Operands.lean ====
section
/-! DEFINITION. The operand of a command and the four constant tables it is looked up in
(30_encoding.md R83; 20_memory.md R52 to R55). `RomRead(T, i)` of the spec is the application of the
table to its index: it has no side effect (20_memory.md R68). -/

namespace Sys2Proof.Machine

/-- The operand of a command: `arg = data` for DATA, "with no extension, scaling or shifting", and
none for NOP and END (30_encoding.md R83). -/
def operand : Instr → Option Sym
  | .b64eNop => none
  | .b64eData arg => some arg
  | .b64eEnd => none
  | .b64dNop => none
  | .b64dData arg => some arg
  | .b64dEnd => none
  | .hexeNop => none
  | .hexeData arg => some arg
  | .hexeEnd => none
  | .hexdNop => none
  | .hexdData arg => some arg
  | .hexdEnd => none

/-- The padding character `PAD`, '=' (20_memory.md R52). -/
def padChar : Sym := 0x3D#8

/-- `ALPHA64`, the base64 alphabet table, in the closed form of 20_memory.md R52. -/
def alpha64 (i : Sextet) : Sym :=
  if i.toNat ≤ 25 then BitVec.ofNat 8 (0x41 + i.toNat)
  else if i.toNat ≤ 51 then BitVec.ofNat 8 (0x61 + (i.toNat - 26))
  else if i.toNat ≤ 61 then BitVec.ofNat 8 (0x30 + (i.toNat - 52))
  else if i.toNat = 62 then 0x2B#8
  else 0x2F#8

/-- The entries of `CLASS64` (20_memory.md R53). -/
inductive Class64 where
  | ws
  | pad
  | alpha (v : Sextet)
  | invalid
  deriving DecidableEq, Repr

/-- `CLASS64`, the base64 decoder's classifier (20_memory.md R53; 41_b64_decoder.md R120). -/
def class64 (c : Sym) : Class64 :=
  if c = 0x20#8 ∨ c = 0x09#8 ∨ c = 0x0A#8 ∨ c = 0x0D#8 then .ws
  else if c = padChar then .pad
  else if 0x41 ≤ c.toNat ∧ c.toNat ≤ 0x5A then .alpha (BitVec.ofNat 6 (c.toNat - 0x41))
  else if 0x61 ≤ c.toNat ∧ c.toNat ≤ 0x7A then .alpha (BitVec.ofNat 6 (c.toNat - 0x61 + 26))
  else if 0x30 ≤ c.toNat ∧ c.toNat ≤ 0x39 then .alpha (BitVec.ofNat 6 (c.toNat - 0x30 + 52))
  else if c = 0x2B#8 then .alpha 62#6
  else if c = 0x2F#8 then .alpha 63#6
  else .invalid

/-- `NIBASC`, the nibble to hex digit table (20_memory.md R54). Its index is 4 bits wide, so an index
outside 0..15 cannot be presented (42_hex_encoder.md R156). -/
def nibAsc (n : Nibble) : Sym :=
  if n.toNat ≤ 9 then BitVec.ofNat 8 (0x30 + n.toNat) else BitVec.ofNat 8 (0x61 + (n.toNat - 10))

/-- `ASCNIB`, the hex digit to nibble classifier: `some n` is the entry `DIGIT(n)`, `none` is
`INVALID` (20_memory.md R55; 43_hex_decoder.md R161). -/
def ascNib (c : Sym) : Option Nibble :=
  if 0x30 ≤ c.toNat ∧ c.toNat ≤ 0x39 then some (BitVec.ofNat 4 (c.toNat - 0x30))
  else if 0x41 ≤ c.toNat ∧ c.toNat ≤ 0x46 then some (BitVec.ofNat 4 (c.toNat - 0x41 + 10))
  else if 0x61 ≤ c.toNat ∧ c.toNat ≤ 0x66 then some (BitVec.ofNat 4 (c.toNat - 0x61 + 10))
  else none

/-- "A linear scan of the 64-symbol table per character", the source's way to a digit value: the
first index of `ALPHA64` that holds `c` (41_b64_decoder.md R137). -/
def scanAlpha64 (c : Sym) : Option Sextet :=
  ((List.range 64).map (BitVec.ofNat 6)).find? (fun i => alpha64 i == c)

end Sys2Proof.Machine
end

