-- ==== Sys2Proof/WellFormed.lean ====
section
/-! DEFINITION. Which words are commands (30_encoding.md R82, R86). -/

namespace Sys2Proof

/-- Every term of `Instr` is well formed: its operand is 8 bits wide by type, and "there is no
illegal `data` value" (30_encoding.md R87). -/
def Instr.wf : Instr → Bool
  | .b64eNop => true
  | .b64eData _ => true
  | .b64eEnd => true
  | .b64dNop => true
  | .b64dData _ => true
  | .b64dEnd => true
  | .hexeNop => true
  | .hexeData _ => true
  | .hexeEnd => true
  | .hexdNop => true
  | .hexdData _ => true
  | .hexdEnd => true

/-- Check of 30_encoding.md R82: every bit of the container above bit 11 is zero. -/
def Word.highBitsClear (w : Word) : Bool := w.extractLsb' 12 4 == 0

/-- Check of 30_encoding.md R86: the `kind` field, bits 9:8, is not the reserved 0b11. -/
def Word.kindDefined (w : Word) : Bool := w.extractLsb' 8 2 != 0b11#2

/-- A word is a command when it passes both checks. A conforming host issues no other word
(70_reset_and_hazards.md R208). -/
def Word.wf (w : Word) : Bool := w.highBitsClear && w.kindDefined

/-- A program is a finite list of command words (30_encoding.md R93). -/
def programWf (ws : List Word) : Bool := ws.all Word.wf

end Sys2Proof
end

