-- ==== Sys2Proof/Decode.lean ====
section
/-! DEFINITION. Decoding and encoding of command words (30_encoding.md R81 to R87). The decoder is
total: every word is a command or is rejected by name. -/

namespace Sys2Proof

/-- Why a word is not a command. -/
inductive Reject where
  /-- A bit above bit 11 of the container is set (30_encoding.md R82, U7). -/
  | highBitsSet
  /-- `kind` = 0b11, reserved for every unit (30_encoding.md R86, U6). -/
  | reservedKind
  deriving DecidableEq, Repr

/-- The `unit` field's code (30_encoding.md R81). -/
def UnitId.code : UnitId → BitVec 2
  | .b64e => 0b00#2
  | .b64d => 0b01#2
  | .hexe => 0b10#2
  | .hexd => 0b11#2

/-- The `kind` field's code (30_encoding.md R81). -/
def Kind.code : Kind → BitVec 2
  | .nop => 0b00#2
  | .data => 0b01#2
  | .fin => 0b10#2

/-- The unit a `unit` field selects: all four codes are used (30_encoding.md R81). -/
def unitOfCode (c : BitVec 2) : UnitId :=
  if c = 0b00#2 then .b64e else if c = 0b01#2 then .b64d else if c = 0b10#2 then .hexe else .hexd

/-- The kind a `kind` field selects; 0b11 selects none (30_encoding.md R81, R86). -/
def kindOfCode (c : BitVec 2) : Option Kind :=
  if c = 0b00#2 then some .nop
  else if c = 0b01#2 then some .data
  else if c = 0b10#2 then some .fin
  else none

/-- The command of a unit, a kind and a `data` field, which NOP and END ignore (30_encoding.md R83). -/
def Instr.ofFields : UnitId → Kind → Sym → Instr
  | .b64e, .nop, _ => .b64eNop
  | .b64e, .data, d => .b64eData d
  | .b64e, .fin, _ => .b64eEnd
  | .b64d, .nop, _ => .b64dNop
  | .b64d, .data, d => .b64dData d
  | .b64d, .fin, _ => .b64dEnd
  | .hexe, .nop, _ => .hexeNop
  | .hexe, .data, d => .hexeData d
  | .hexe, .fin, _ => .hexeEnd
  | .hexd, .nop, _ => .hexdNop
  | .hexd, .data, d => .hexdData d
  | .hexd, .fin, _ => .hexdEnd

/-- Decode at a unit's own command port: the port implies the unit (30_encoding.md R81). -/
def decodePort (u : UnitId) (c : PortCmd) : Except Reject Instr :=
  match kindOfCode (c.extractLsb' 8 2) with
  | some k => .ok (Instr.ofFields u k (c.extractLsb' 0 8))
  | none => .error .reservedKind

/-- Decode a 12-bit command word: `unit` in bits 11:10, `kind` in 9:8, `data` in 7:0 (R81, R85). -/
def decodeCmd (w : Cmd) : Except Reject Instr :=
  decodePort (unitOfCode (w.extractLsb' 10 2)) (w.extractLsb' 0 10)

/-- Decode a command word in its container: any bit above bit 11 makes it no command (R82). -/
def decodeWord (w : Word) : Except Reject Instr :=
  if w.highBitsClear then decodeCmd (w.extractLsb' 0 12) else .error .highBitsSet

/-- The `data` field of a command as the assembler writes it: the operand of DATA, 0x00 for NOP and
END (30_encoding.md R83). -/
def Instr.dataField : Instr → Sym
  | .b64eNop => 0x00#8
  | .b64eData d => d
  | .b64eEnd => 0x00#8
  | .b64dNop => 0x00#8
  | .b64dData d => d
  | .b64dEnd => 0x00#8
  | .hexeNop => 0x00#8
  | .hexeData d => d
  | .hexeEnd => 0x00#8
  | .hexdNop => 0x00#8
  | .hexdData d => d
  | .hexdEnd => 0x00#8

/-- The command at its unit's own port, `kind ‖ data` (30_encoding.md R81). -/
def encodePort (i : Instr) : PortCmd := i.kind.code ++ i.dataField

/-- The 12-bit command word, `unit ‖ kind ‖ data` (30_encoding.md R81). -/
def encodeCmd (i : Instr) : Cmd := i.unit.code ++ encodePort i

/-- The command word in its 16-bit container, the upper four bits zero (30_encoding.md R82). -/
def encodeWord (i : Instr) : Word := 0b0000#4 ++ encodeCmd i

/-- The words of an instruction: one, since there is one command length (30_encoding.md R81, R86). -/
def encode (i : Instr) : List Word := [encodeWord i]

/-- One row of the opcode map: `match` and `mask` select the command by `(w & mask) == match`. -/
structure OpcodeRow where
  unit : UnitId
  kind : Kind
  pattern : Cmd
  mask : Cmd
  deriving DecidableEq, Repr

/-- The opcode map of 30_encoding.md R85, row by row. -/
def opcodeTable : List OpcodeRow :=
  [ ⟨.b64e, .nop, 0x000#12, 0xF00#12⟩, ⟨.b64e, .data, 0x100#12, 0xF00#12⟩, ⟨.b64e, .fin, 0x200#12, 0xF00#12⟩,
    ⟨.b64d, .nop, 0x400#12, 0xF00#12⟩, ⟨.b64d, .data, 0x500#12, 0xF00#12⟩, ⟨.b64d, .fin, 0x600#12, 0xF00#12⟩,
    ⟨.hexe, .nop, 0x800#12, 0xF00#12⟩, ⟨.hexe, .data, 0x900#12, 0xF00#12⟩, ⟨.hexe, .fin, 0xA00#12, 0xF00#12⟩,
    ⟨.hexd, .nop, 0xC00#12, 0xF00#12⟩, ⟨.hexd, .data, 0xD00#12, 0xF00#12⟩, ⟨.hexd, .fin, 0xE00#12, 0xF00#12⟩ ]

/-- The four reserved patterns of 30_encoding.md R86, under the mask 0xF00. -/
def reservedPatterns : List Cmd := [0x300#12, 0x700#12, 0xB00#12, 0xF00#12]

/-- A row selects a word. -/
def OpcodeRow.selects (r : OpcodeRow) (w : Cmd) : Bool := w &&& r.mask == r.pattern

/-- The host's question: the command read from an instruction of `nbits` bits, numbered as
spec/opcode_table.json numbers them, in a 16-bit container whose further bits are zero. -/
def decodeTableWord (nbits w : Nat) : Option Instr :=
  if w % 2 ^ nbits < 2 ^ 16 then
    match decodeWord (BitVec.ofNat 16 (w % 2 ^ nbits)) with
    | .ok i => some i
    | .error _ => none
  else none

end Sys2Proof
end

