-- ==== Sys2Proof/Config.lean ====
section
/-! DEFINITION. What an implementation of CORE fixes (00_scope.md R5; 92_eei_decisions.md, open
parameters), and the free values the spec leaves open. -/

namespace Sys2Proof

/-- The parameters of 00_scope.md R5 that a model takes as arguments. State carries them (log entry
6) so that every statement about a state is a statement about every setting of them. -/
structure Params where
  /-- `CNT_W`, the width in bits of a result record's `count` (R5, D18: OPEN, default 32, at least 1). -/
  cntW : Nat
  /-- `B64D_JUSTIFY`, whether B64D left-justifies a group that closed short (R5, R126, D11). -/
  justify : Bool
  deriving DecidableEq, Repr

/-- This hardware: `CNT_W` = 32 (the default) and `B64D_JUSTIFY` = 0 (00_scope.md R5). -/
def Params.hardware : Params := { cntW := 32, justify := false }

/-- The `count` that B64D reports for a message outside the counter envelope, which the spec does not
specify (70_reset_and_hazards.md R207; U3 'any value'; log entry 7). Its argument counts such
records, so that each takes a value of its own. -/
opaque Config.freeCountB64d : Nat → Nat

/-- The `count` that HEXD reports for a message outside the counter envelope (R207; U3; log entry 7). -/
opaque Config.freeCountHexd : Nat → Nat

end Sys2Proof
end

