-- ==== Sys2Proof/Machine/State.lean ====
section
/-! DEFINITION. The state of CORE: the registers of its four units (10_state.md R20 to R36), the
streams a program's end state names (30_encoding.md R93), the host inputs still to come, the
parameters of 00_scope.md R5, and the counters of the free values. Register names are the spec's. -/

namespace Sys2Proof.Machine

/-- The cause codes (60_exceptions.md R181). -/
inductive Cause where
  /-- Code 0, no error. -/
  | none
  /-- Code 1, "a character outside the expected alphabet for the codec". -/
  | malformedChar
  /-- Code 2, "a base64 group with fewer than 2 usable characters"; B64D only. -/
  | insufficientGroup
  /-- Code 3, "final unpaired character with no hex decode possible"; HEXD only. -/
  | oddTrailing
  deriving DecidableEq, Repr

/-- The result record, emitted once per message by a decoder's END (10_state.md R30). -/
structure ResultRecord where
  fail : Bool
  cause : Cause
  count : Nat
  deriving DecidableEq, Repr

/-- The registers of B64E (10_state.md R21). `e_phase` has the three values of R22. -/
structure B64E where
  e_phase : Fin 3
  e_b0 : Sym
  e_b1 : Sym
  deriving DecidableEq, Repr

/-- The registers of B64D (10_state.md R23). `d_count` is the unbounded count R207 allows a model
(log entry 7). -/
structure B64D where
  d_acc : Group
  d_pos : BitVec 2
  d_nvalid : BitVec 2
  d_count : Nat
  d_fail : Bool
  d_cause : Cause
  deriving DecidableEq, Repr

/-- The registers of HEXD (10_state.md R25). HEXE has no register (R27). -/
structure HEXD where
  h_phase : Bool
  h_hi_ok : Bool
  h_hi : Nibble
  h_count : Nat
  h_fail : Bool
  h_cause : Cause
  deriving DecidableEq, Repr

/-- The host's sinks: one output stream per unit and one result stream per decoder, oldest item
first (20_memory.md R50, R59). -/
structure Sinks where
  b64e_out : List Sym
  b64d_out : List Sym
  hexe_out : List Sym
  hexd_out : List Sym
  b64d_res : List ResultRecord
  hexd_res : List ResultRecord
  deriving DecidableEq, Repr

/-- What the host can present next: a command word (30_encoding.md R93), or RESET between two
commands (70_reset_and_hazards.md R200; log entry 17). -/
inductive HostInput where
  | word (w : Word)
  | reset
  deriving DecidableEq, Repr

/-- The whole state. -/
structure State where
  /-- The parameters of 00_scope.md R5 (log entry 6). -/
  params : Params
  /-- The host inputs not yet consumed, next one first (20_memory.md R59, R70). -/
  input : List HostInput
  /-- The registers of B64E. -/
  b64e : B64E
  /-- The registers of B64D. -/
  b64d : B64D
  /-- The registers of HEXD. -/
  hexd : HEXD
  /-- The output and result streams. -/
  sinks : Sinks
  /-- The model's own: which free `count` of B64D comes next (log entry 7). -/
  freeD : Nat
  /-- The model's own: which free `count` of HEXD comes next (log entry 7). -/
  freeH : Nat
  deriving DecidableEq, Repr

/-- How the machine can fault: in no way. "CORE never traps, halts, hangs or faults on any input"
(60_exceptions.md R180), and the one fault the source names cannot be represented (R156). -/
inductive Fault where
  deriving DecidableEq, Repr

/-- Why a step is refused. -/
inductive Refusal where
  /-- An instruction that has no meaning yet, raised by an arm of `exec`; safe. No arm raises it. -/
  | notModelled (mnemonic : String)
  /-- Raised by `step` on a word with `kind` = 0b11: the addressed unit has no step for it
  (30_encoding.md R86); safe. -/
  | reservedKind
  /-- Raised by `step` on a container with a bit above bit 11 set: it is not a command
  (30_encoding.md R82); safe. -/
  | highBitsSet
  deriving DecidableEq, Repr

/-- The reset values of B64E (10_state.md R34). -/
def B64E.reset : B64E := { e_phase := 0, e_b0 := 0#8, e_b1 := 0#8 }

/-- The reset values of B64D (10_state.md R34). -/
def B64D.reset : B64D :=
  { d_acc := 0#24, d_pos := 0#2, d_nvalid := 0#2, d_count := 0, d_fail := false, d_cause := .none }

/-- The reset values of HEXD (10_state.md R34). -/
def HEXD.reset : HEXD :=
  { h_phase := false, h_hi_ok := false, h_hi := 0#4, h_count := 0, h_fail := false, h_cause := .none }

/-- Empty output and result streams (95_test_vectors.md Part 4; log entry 10). -/
def Sinks.empty : Sinks :=
  { b64e_out := [], b64d_out := [], hexe_out := [], hexd_out := [], b64d_res := [], hexd_res := [] }

/-- The machine right after reset (10_state.md R34), with this hardware's parameters (R5), nothing
issued by the host yet and empty streams (log entries 9, 10). -/
def State.reset : State :=
  { params := .hardware, input := [], b64e := .reset, b64d := .reset, hexd := .reset,
    sinks := .empty, freeD := 0, freeH := 0 }

end Sys2Proof.Machine
end

