-- ==== Sys2Proof/Machine/Flags.lean ====
section
/-! DEFINITION. The flags of the decoders and their causes (10_state.md R29, R35; 60_exceptions.md
R181, R188). There is no other flag. -/

namespace Sys2Proof.Machine

/-- The 2-bit cause code (60_exceptions.md R181). -/
def Cause.code : Cause → BitVec 2
  | .none => 0#2
  | .malformedChar => 1#2
  | .insufficientGroup => 2#2
  | .oddTrailing => 3#2

/-- `Fail(cause)` of B64D, the error entry: "`fail <- 1 ; cause <- cause`" and nothing else
(60_exceptions.md R188). -/
def B64D.failWith (c : Cause) (r : B64D) : B64D := { r with d_fail := true, d_cause := c }

/-- `Fail(cause)` of HEXD (60_exceptions.md R188). -/
def HEXD.failWith (c : Cause) (r : HEXD) : HEXD := { r with h_fail := true, h_cause := c }

/-- B64D is STOPPED: its DATA commands have no effect (10_state.md R35). -/
def B64D.stopped (r : B64D) : Bool := r.d_fail

/-- HEXD is STOPPED (10_state.md R35). -/
def HEXD.stopped (r : HEXD) : Bool := r.h_fail

/-- The cause of the error a closing group is in, if any: an invalid symbol closed it, or it has
fewer than 2 valid symbols; "when both hold, the cause recorded is MALFORMED_CHAR"
(41_b64_decoder.md R127; 60_exceptions.md R182, R183, R187). -/
def groupError (v : Nat) (bad : Bool) : Option Cause :=
  if bad then some .malformedChar else if v < 2 then some .insufficientGroup else none

end Sys2Proof.Machine
end

