-- ==== Sys2Proof/Machine/Repack.lean ====
section
/-! DEFINITION. The repackers: the pure bit regrouping of the four units (40_b64_encoder.md R100 to
R102; 41_b64_decoder.md R123 to R126; 42_hex_encoder.md R150; 43_hex_decoder.md R162). -/

namespace Sys2Proof.Machine

/-- `REPACK24(b0, b1, b2)`, the four digit values of a full group (40_b64_encoder.md R100). -/
def repack24 (b0 b1 b2 : Sym) : Sextet × Sextet × Sextet × Sextet :=
  (b0.extractLsb' 2 6,
   b0.extractLsb' 0 2 ++ b1.extractLsb' 4 4,
   b1.extractLsb' 0 4 ++ b2.extractLsb' 6 2,
   b2.extractLsb' 0 6)

/-- `REPACK8(b0)`, the two digit values of a remainder of one byte (40_b64_encoder.md R101). -/
def repack8 (b0 : Sym) : Sextet × Sextet :=
  (b0.extractLsb' 2 6, b0.extractLsb' 0 2 ++ 0b0000#4)

/-- `REPACK16(b0, b1)`, the three digit values of a remainder of two bytes (40_b64_encoder.md R102). -/
def repack16 (b0 b1 : Sym) : Sextet × Sextet × Sextet :=
  (b0.extractLsb' 2 6,
   b0.extractLsb' 0 2 ++ b1.extractLsb' 4 4,
   b1.extractLsb' 0 4 ++ 0b00#2)

/-- The `PAD` step of `ACCUM`: "shift the accumulator left by 6 (contributing zero bits)", in 24 bits
(41_b64_decoder.md R123; 00_scope.md R7). -/
def accumPad (acc : Group) : Group := acc <<< 6

/-- The `ALPHA(x)` step of `ACCUM`: "shift left by 6 and OR in its table index" (R123). -/
def accumAlpha (acc : Group) (x : Sextet) : Group := (acc <<< 6) ||| x.setWidth 24

/-- `BYTECOUNT(v)`, from the number of valid symbols of a group, 0 to 4 (41_b64_decoder.md R124). -/
def byteCount : Nat → Nat
  | 0 => 0
  | 1 => 0
  | 2 => 1
  | 3 => 2
  | _ => 3

/-- `EXTRACT(acc, n)`: the first `n` of `acc[23:16]`, `acc[15:8]`, `acc[7:0]` (41_b64_decoder.md R125). -/
def extractBytes (acc : Group) (n : Nat) : List Sym :=
  [acc.extractLsb' 16 8, acc.extractLsb' 8 8, acc.extractLsb' 0 8].take n

/-- The justification of a group that closed with `k` accumulated symbols: none when `B64D_JUSTIFY`
is 0, as in this hardware; a left shift by `6 * (4 - k)` when it is 1 (41_b64_decoder.md R126). -/
def justifyAcc (justify : Bool) (acc : Group) (k : Nat) : Group :=
  if justify then acc <<< (6 * (4 - k)) else acc

/-- `SPLIT8(b)`, the high nibble then the low nibble of a byte (42_hex_encoder.md R150). -/
def split8 (b : Sym) : Nibble × Nibble := (b.extractLsb' 4 4, b.extractLsb' 0 4)

/-- `JOIN8(hi, lo) = hi ‖ lo` (43_hex_decoder.md R162). -/
def join8 (hi lo : Nibble) : Sym := hi ++ lo

end Sys2Proof.Machine
end

