-- ==== Sys2Proof/Machine/Ops.lean ====
section
/-! DEFINITION. The operations the meanings share: the output primitives (20_memory.md R68), closing
a base64 group (41_b64_decoder.md R127), the result record (10_state.md R30), the return from an
error (60_exceptions.md R190), RESET (70_reset_and_hazards.md R201), and the host's input list. -/

namespace Sys2Proof.Machine

/-- A command that completes with the state `t`. Every command does (60_exceptions.md R180). -/
def done (t : State) : Host.Outcome State Fault Refusal := .next t

/-! ### Registers of a unit -/

/-- The state with the registers of B64E replaced. -/
def State.setB64e (r : B64E) (s : State) : State := { s with b64e := r }

/-- The state with the registers of B64D replaced. -/
def State.setB64d (r : B64D) (s : State) : State := { s with b64d := r }

/-- The state with the registers of HEXD replaced. -/
def State.setHexd (r : HEXD) (s : State) : State := { s with hexd := r }

/-! ### Output primitives: a stream is only ever appended to (20_memory.md R59, R68) -/

/-- `Emit(OUT, v)` of B64E for each `v` of `vs`, in order. -/
def State.emitB64e (vs : List Sym) (s : State) : State :=
  { s with sinks := { s.sinks with b64e_out := s.sinks.b64e_out ++ vs } }

/-- `Emit(OUT, v)` of B64D for each `v` of `vs`, in order. -/
def State.emitB64d (vs : List Sym) (s : State) : State :=
  { s with sinks := { s.sinks with b64d_out := s.sinks.b64d_out ++ vs } }

/-- `Emit(OUT, v)` of HEXE for each `v` of `vs`, in order. -/
def State.emitHexe (vs : List Sym) (s : State) : State :=
  { s with sinks := { s.sinks with hexe_out := s.sinks.hexe_out ++ vs } }

/-- `Emit(OUT, v)` of HEXD for each `v` of `vs`, in order. -/
def State.emitHexd (vs : List Sym) (s : State) : State :=
  { s with sinks := { s.sinks with hexd_out := s.sinks.hexd_out ++ vs } }

/-! ### The count a result record carries (10_state.md R30; 70_reset_and_hazards.md R207) -/

/-- A message that makes its decoder emit `n` bytes is inside the counter envelope: "at most
2^CNT_W − 1" (70_reset_and_hazards.md R207). -/
def inEnvelope (cntW n : Nat) : Bool := n < 2 ^ cntW

/-- The `count` field: the number of bytes emitted, and outside the envelope a free value of `CNT_W`
bits (R207, U3; log entry 7). -/
def reportedCount (cntW n free : Nat) : Nat := if inEnvelope cntW n then n else free % 2 ^ cntW

/-- The next free value, once one is used. -/
def nextFree (cntW n free : Nat) : Nat := if inEnvelope cntW n then free else free + 1

/-- `EmitResult(d_fail, d_cause, d_count)` of B64D (20_memory.md R68; 41_b64_decoder.md R134). -/
def State.emitResultB64d (s : State) : State :=
  { s with
    sinks := { s.sinks with
      b64d_res := s.sinks.b64d_res ++
        [{ fail := s.b64d.d_fail, cause := s.b64d.d_cause,
           count := reportedCount s.params.cntW s.b64d.d_count (Config.freeCountB64d s.freeD) }] }
    freeD := nextFree s.params.cntW s.b64d.d_count s.freeD }

/-- `EmitResult(h_fail, h_cause, h_count)` of HEXD (20_memory.md R68; 43_hex_decoder.md R169). -/
def State.emitResultHexd (s : State) : State :=
  { s with
    sinks := { s.sinks with
      hexd_res := s.sinks.hexd_res ++
        [{ fail := s.hexd.h_fail, cause := s.hexd.h_cause,
           count := reportedCount s.params.cntW s.hexd.h_count (Config.freeCountHexd s.freeH) }] }
    freeH := nextFree s.params.cntW s.hexd.h_count s.freeH }

/-- A result record packed into one word: `fail | cause << 1 | count << 3` (10_state.md R30;
30_encoding.md R92). -/
def ResultRecord.pack (r : ResultRecord) : Nat :=
  (if r.fail then 1 else 0) ||| (r.cause.code.toNat <<< 1) ||| (r.count <<< 3)

/-- The packed layout as bits: `count` in `CNT_W`+2 : 3, `cause` in 2:1, `fail` in 0 (10_state.md R30). -/
def ResultRecord.packBits (cntW : Nat) (r : ResultRecord) : BitVec (cntW + 2 + 1) :=
  BitVec.ofNat cntW r.count ++ r.cause.code ++ BitVec.ofBool r.fail

/-! ### B64D: accumulating and closing a group -/

/-- The group registers cleared and `n` more bytes counted: `d_count <- d_count + n ; d_acc <- 0 ;
d_pos <- 0 ; d_nvalid <- 0` (41_b64_decoder.md R127). -/
def B64D.clearGroup (n : Nat) (r : B64D) : B64D :=
  { r with d_acc := 0#24, d_pos := 0#2, d_nvalid := 0#2, d_count := r.d_count + n }

/-- The registers after a group closes with `v` valid symbols, `bad` when an invalid symbol closed it:
counted and cleared, and the error entered if there is one (41_b64_decoder.md R127). -/
def B64D.closeGroup (v : Nat) (bad : Bool) (r : B64D) : B64D :=
  match groupError v bad with
  | some c => (r.clearGroup (byteCount v)).failWith c
  | none => r.clearGroup (byteCount v)

/-- `CloseGroup(acc, k, v, bad)`: the bytes are emitted whether or not the group is in error
(41_b64_decoder.md R127). -/
def State.closeGroup (acc : Group) (k v : Nat) (bad : Bool) (s : State) : State :=
  (s.emitB64d (extractBytes (justifyAcc s.params.justify acc k) (byteCount v))).setB64d
    (s.b64d.closeGroup v bad)

/-- One more accumulated symbol: the fourth closes the group, an earlier one is stored
(41_b64_decoder.md R133). `v` fits 2 bits when the group does not close (10_state.md R24; log entry 8). -/
def State.accumulate (acc : Group) (v : Nat) (s : State) : State :=
  if s.b64d.d_pos = 3#2 then s.closeGroup acc 4 v false
  else s.setB64d { s.b64d with
    d_acc := acc, d_pos := s.b64d.d_pos + 1#2, d_nvalid := BitVec.ofNat 2 v }

/-! ### Host inputs -/

/-- The RESET input: every register takes its reset value, nothing is emitted, and the streams
already delivered are not changed (70_reset_and_hazards.md R201). -/
def State.applyReset (s : State) : State :=
  { s with b64e := .reset, b64d := .reset, hexd := .reset }

/-- The host issues a program: its words join the end of the command list, in order (30_encoding.md R93). -/
def State.issue (ws : List Word) (s : State) : State :=
  { s with input := s.input ++ ws.map .word }

/-- The refusal that a rejected word ends in (30_encoding.md R82, R86). -/
def refusalOf : Reject → Refusal
  | .highBitsSet => .highBitsSet
  | .reservedKind => .reservedKind

end Sys2Proof.Machine
end

