-- ==== Sys2Proof/Machine/B64d.lean ====
section
/-! DEFINITION. B64D, the base64 decoder: the meanings of its commands (41_b64_decoder.md R132 to
R134). -/

namespace Sys2Proof.Machine

/-- `B64D.NOP`: nothing, and not a whitespace symbol of the message (41_b64_decoder.md R132). -/
def execB64dNop (s : State) : Host.Outcome State Fault Refusal := done s

/-- What B64D does with a symbol while RUNNING, by its class (41_b64_decoder.md R133). -/
def State.b64dSymbol (c : Class64) (s : State) : State :=
  match c with
  | .ws => s
  | .invalid => s.closeGroup s.b64d.d_acc s.b64d.d_pos.toNat s.b64d.d_nvalid.toNat true
  | .pad => s.accumulate (accumPad s.b64d.d_acc) s.b64d.d_nvalid.toNat
  | .alpha x => s.accumulate (accumAlpha s.b64d.d_acc x) (s.b64d.d_nvalid.toNat + 1)

/-- `B64D.DATA arg`: ignored while STOPPED, else by the class of `arg` (41_b64_decoder.md R133). -/
def execB64dData (arg : Sym) (s : State) : Host.Outcome State Fault Refusal :=
  done (if s.b64d.stopped then s else s.b64dSymbol (class64 arg))

/-- The short last group, if there is one, closes at the end of the message (41_b64_decoder.md R134). -/
def State.closeLastGroup (s : State) : State :=
  if s.b64d.stopped = false ∧ s.b64d.d_pos ≠ 0#2 then
    s.closeGroup s.b64d.d_acc s.b64d.d_pos.toNat s.b64d.d_nvalid.toNat false
  else s

/-- `B64D.END`: the short last group's bytes, then the result record, then every register to its
reset value, which is also the return from an error (41_b64_decoder.md R134; 60_exceptions.md R190). -/
def execB64dEnd (s : State) : Host.Outcome State Fault Refusal :=
  done (s.closeLastGroup.emitResultB64d.setB64d .reset)

end Sys2Proof.Machine
end

