-- ==== Sys2Proof/Machine/B64e.lean ====
section
/-! DEFINITION. B64E, the base64 encoder: the meanings of its commands (40_b64_encoder.md R104 to
R106). -/

namespace Sys2Proof.Machine

/-- The four characters of a full group (40_b64_encoder.md R103, R105). -/
def chars24 (b0 b1 b2 : Sym) : List Sym :=
  match repack24 b0 b1 b2 with
  | (c0, c1, c2, c3) => [alpha64 c0, alpha64 c1, alpha64 c2, alpha64 c3]

/-- The four characters of a remainder of one byte (40_b64_encoder.md R103, R106). -/
def chars8 (b0 : Sym) : List Sym :=
  match repack8 b0 with
  | (c0, c1) => [alpha64 c0, alpha64 c1, padChar, padChar]

/-- The four characters of a remainder of two bytes (40_b64_encoder.md R103, R106). -/
def chars16 (b0 b1 : Sym) : List Sym :=
  match repack16 b0 b1 with
  | (c0, c1, c2) => [alpha64 c0, alpha64 c1, alpha64 c2, padChar]

/-- `B64E.NOP`: nothing (40_b64_encoder.md R104). -/
def execB64eNop (s : State) : Host.Outcome State Fault Refusal := done s

/-- `B64E.DATA arg`: the first two bytes of a group are held, the third completes it; then `e_b0` and
`e_b1` keep their values (40_b64_encoder.md R105). -/
def execB64eData (arg : Sym) (s : State) : Host.Outcome State Fault Refusal :=
  done (match s.b64e.e_phase with
    | 0 => s.setB64e { s.b64e with e_phase := 1, e_b0 := arg }
    | 1 => s.setB64e { s.b64e with e_phase := 2, e_b1 := arg }
    | 2 => (s.emitB64e (chars24 s.b64e.e_b0 s.b64e.e_b1 arg)).setB64e { s.b64e with e_phase := 0 })

/-- `B64E.END`: the padded remainder, if any, then every register to its reset value
(40_b64_encoder.md R106). -/
def execB64eEnd (s : State) : Host.Outcome State Fault Refusal :=
  done ((match s.b64e.e_phase with
    | 0 => s
    | 1 => s.emitB64e (chars8 s.b64e.e_b0)
    | 2 => s.emitB64e (chars16 s.b64e.e_b0 s.b64e.e_b1)).setB64e .reset)

end Sys2Proof.Machine
end

