-- ==== Sys2Proof/Machine/Hexd.lean ====
section
/-! DEFINITION. HEXD, the hex decoder: the meanings of its commands (43_hex_decoder.md R167 to
R169). -/

namespace Sys2Proof.Machine

/-- `HEXD.NOP`: nothing (43_hex_decoder.md R167). -/
def execHexdNop (s : State) : Host.Outcome State Fault Refusal := done s

/-- The first symbol of a pair is held as its classification and judged by nothing
(43_hex_decoder.md R168). -/
def HEXD.hold (q : Option Nibble) (r : HEXD) : HEXD :=
  match q with
  | some n => { r with h_hi_ok := true, h_hi := n, h_phase := true }
  | none => { r with h_hi_ok := false, h_hi := 0#4, h_phase := true }

/-- The second symbol completes the pair: a byte is emitted and counted if both are digits, else the
error MALFORMED_CHAR is entered (43_hex_decoder.md R168, R163). -/
def State.completePair (q : Option Nibble) (s : State) : State :=
  match s.hexd.h_hi_ok, q with
  | true, some n =>
    (s.emitHexd [join8 s.hexd.h_hi n]).setHexd
      { s.hexd with h_phase := false, h_count := s.hexd.h_count + 1 }
  | true, none => s.setHexd (HEXD.failWith .malformedChar { s.hexd with h_phase := false })
  | false, _ => s.setHexd (HEXD.failWith .malformedChar { s.hexd with h_phase := false })

/-- `HEXD.DATA arg`: ignored while STOPPED, else held or judged (43_hex_decoder.md R168). -/
def execHexdData (arg : Sym) (s : State) : Host.Outcome State Fault Refusal :=
  done (if s.hexd.stopped then s
    else if s.hexd.h_phase then s.completePair (ascNib arg)
    else s.setHexd (s.hexd.hold (ascNib arg)))

/-- A held symbol at the end of the message is the odd leftover, whatever it is
(43_hex_decoder.md R164, R169). -/
def HEXD.judgeEnd (r : HEXD) : HEXD :=
  if r.stopped = false ∧ r.h_phase = true then r.failWith .oddTrailing else r

/-- `HEXD.END`: the odd leftover's error if there is one, the result record, then every register to
its reset value, which is also the return from an error (43_hex_decoder.md R169; 60_exceptions.md
R190). -/
def execHexdEnd (s : State) : Host.Outcome State Fault Refusal :=
  done ((s.setHexd s.hexd.judgeEnd).emitResultHexd.setHexd .reset)

end Sys2Proof.Machine
end

