-- ==== Sys2Proof/Machine/Hexe.lean ====
section
/-! DEFINITION. HEXE, the hex encoder: the meanings of its commands (42_hex_encoder.md R152 to
R154). -/

namespace Sys2Proof.Machine

/-- The two digits of a byte, high nibble first (42_hex_encoder.md R151, R153). -/
def hexChars (b : Sym) : List Sym :=
  match split8 b with
  | (hi, lo) => [nibAsc hi, nibAsc lo]

/-- `HEXE.NOP`: nothing (42_hex_encoder.md R152). -/
def execHexeNop (s : State) : Host.Outcome State Fault Refusal := done s

/-- `HEXE.DATA arg`: two digits at once; there is no register (42_hex_encoder.md R153). -/
def execHexeData (arg : Sym) (s : State) : Host.Outcome State Fault Refusal :=
  done (s.emitHexe (hexChars arg))

/-- `HEXE.END`: "the end of a message has nothing to flush" (42_hex_encoder.md R154). -/
def execHexeEnd (s : State) : Host.Outcome State Fault Refusal := done s

end Sys2Proof.Machine
end

