-- ==== Sys2Proof/Machine/Dispatch.lean ====
section
/-! DEFINITION. One arm per command (30_encoding.md R85). -/

namespace Sys2Proof.Machine

def exec (i : Instr) (s : State) : Host.Outcome State Fault Refusal :=
  match i with
  | .b64eNop => Sys2Proof.Machine.execB64eNop s
  | .b64eData arg => Sys2Proof.Machine.execB64eData arg s
  | .b64eEnd => Sys2Proof.Machine.execB64eEnd s
  | .b64dNop => Sys2Proof.Machine.execB64dNop s
  | .b64dData arg => Sys2Proof.Machine.execB64dData arg s
  | .b64dEnd => Sys2Proof.Machine.execB64dEnd s
  | .hexeNop => Sys2Proof.Machine.execHexeNop s
  | .hexeData arg => Sys2Proof.Machine.execHexeData arg s
  | .hexeEnd => Sys2Proof.Machine.execHexeEnd s
  | .hexdNop => Sys2Proof.Machine.execHexdNop s
  | .hexdData arg => Sys2Proof.Machine.execHexdData arg s
  | .hexdEnd => Sys2Proof.Machine.execHexdEnd s

end Sys2Proof.Machine
end

