-- ==== Sys2Proof/Machine/Step.lean ====
section
/-! DEFINITION. One step: the next input of the host is consumed and takes its effect (20_memory.md
R59, R70; 30_encoding.md R93). -/

namespace Sys2Proof.Machine

/-- The state with the host inputs replaced. -/
def State.setInput (inputs : List HostInput) (s : State) : State := { s with input := inputs }

/-- One step. A command word is decoded and executed; a word that is no command is refused
(30_encoding.md R82, R86); RESET takes its effect (70_reset_and_hazards.md R201); with nothing
issued the machine stays as it is (R204; log entry 3). R201 lets commands issued before RESET and not
yet executed be "discarded or executed before it as the transport decides": this step executes every
word that stands before `.reset` in the list, the model's choice (DESIGN CHOICE, log entry 17). -/
def step (s : State) : Host.Outcome State Fault Refusal :=
  match s.input with
  | [] => .next s
  | .reset :: rest => .next (s.setInput rest).applyReset
  | .word w :: rest =>
    match decodeWord w with
    | .ok i => exec i (s.setInput rest)
    | .error r => .refused (refusalOf r)

/-- The state in which the next input is the word `w` of `nbits` bits, in its 16-bit container: the
host issues it before everything else it has issued (log entry 9). -/
def State.withFetchWord (s : State) (nbits w : Nat) : State :=
  s.setInput (.word (BitVec.ofNat 16 (w % 2 ^ nbits)) :: s.input)

end Sys2Proof.Machine
end

