-- ==== Sys2Proof/Machine/Program.lean ====
section
/-! DEFINITION. Messages and programs (00_scope.md R10; 30_encoding.md R80, R90, R93). -/

namespace Sys2Proof.Machine

/-- Commands executed one after another, stopping where a command does not complete (R93; 20_memory.md
R64). -/
def runCommands : List Instr → State → Host.Outcome State Fault Refusal
  | [], s => .next s
  | i :: is, s =>
    match exec i s with
    | .next t => runCommands is t
    | .fault r => .fault r
    | .refused r => .refused r

/-- `U.DATA c` for a symbol `c` (30_encoding.md R80). -/
def dataCommand (u : UnitId) (c : Sym) : Instr := Instr.ofFields u .data c

/-- `U.END` (30_encoding.md R80). -/
def endCommand (u : UnitId) : Instr := Instr.ofFields u .fin 0x00#8

/-- `U.NOP` (30_encoding.md R80). -/
def nopCommand (u : UnitId) : Instr := Instr.ofFields u .nop 0x00#8

/-- A message `m` for unit `u`: DATA for each symbol, then END. It is also the expansion of `.MSG` and
of `.BYTES` (30_encoding.md R80, R90). -/
def message (u : UnitId) (m : List Sym) : List Instr := m.map (dataCommand u) ++ [endCommand u]

/-- The list presents the message `m` to unit `u`: the message's commands "with any number of
`U.NOP` anywhere between" (30_encoding.md R80). -/
def presents (u : UnitId) (m : List Sym) (is : List Instr) : Prop :=
  is.filter (fun i => i != nopCommand u) = message u m

/-- The commands of one unit, in order: its subsequence of a program (30_encoding.md R93). -/
def commandsOf (u : UnitId) (is : List Instr) : List Instr := is.filter (fun i => i.unit == u)

end Sys2Proof.Machine
end

