-- ==== Sys2Proof/Machine/Assembler.lean ====
section
/-! DEFINITION. The assembler's language, one command a line, and the pseudo-instructions
(30_encoding.md R83, R89, R90). Source text is a list of 8-bit codes (00_scope.md R8). What R89 and
R90 leave open of the text's form is fixed by log entry 12. -/

namespace Sys2Proof.Machine

/-- The 8-bit codes of a quoted text (00_scope.md R8). -/
def text (s : String) : List Sym := s.toList.map (fun c => BitVec.ofNat 8 c.toNat)

/-- The codes the assembler's rules name: blank and tab, `;`, the quotes, the backslash. -/
def isBlank (c : Sym) : Bool := c == 0x20#8 || c == 0x09#8

/-- The text after its leading blanks. -/
def skipBlanks (t : List Sym) : List Sym := t.dropWhile isBlank

/-- Nothing but blanks and a comment is left: "a `;` starts a comment to the end of the line" (R89). -/
def lineDone (t : List Sym) : Bool :=
  match skipBlanks t with
  | [] => true
  | c :: _ => c == 0x3B#8

/-- The text after a given word, if it starts with it. -/
def afterWord (word t : List Sym) : Option (List Sym) :=
  if t.take word.length = word then some (t.drop word.length) else none

/-- A printable ASCII character. -/
def isPrintable (c : Sym) : Bool := 0x20 ≤ c.toNat && c.toNat ≤ 0x7E

/-- The character an escape stands for: `\t`, `\n` or `\r` (30_encoding.md R89). -/
def escapeCode (c : Sym) : Option Sym :=
  if c = 0x74#8 then some 0x09#8
  else if c = 0x6E#8 then some 0x0A#8
  else if c = 0x72#8 then some 0x0D#8
  else none

/-- A decimal digit. -/
def isDigit (c : Sym) : Bool := 0x30 ≤ c.toNat && c.toNat ≤ 0x39

/-- The number a list of decimal digits is. -/
def decimal (ds : List Sym) : Nat := ds.foldl (fun n c => 10 * n + (c.toNat - 0x30)) 0

/-- An operand written as `0x` and two hex digits (30_encoding.md R89). -/
def parseHex : List Sym → Option (Sym × List Sym)
  | z :: x :: a :: b :: t =>
    if z = 0x30#8 ∧ x = 0x78#8 then
      match ascNib a, ascNib b with
      | some hi, some lo => some (join8 hi lo, t)
      | _, _ => none
    else none
  | _ => none

/-- An operand written as one character in single quotes, or an escape in them (30_encoding.md R89). -/
def parseChar : List Sym → Option (Sym × List Sym)
  | q :: e :: c :: r :: t =>
    if q = 0x27#8 ∧ e = 0x5C#8 ∧ r = 0x27#8 ∧ (escapeCode c).isSome then
      (escapeCode c).map (fun v => (v, t))
    else if q = 0x27#8 ∧ c = 0x27#8 ∧ isPrintable e then some (e, r :: t)
    else none
  | [q, e, c] => if q = 0x27#8 ∧ c = 0x27#8 ∧ isPrintable e then some (e, []) else none
  | _ => none

/-- An operand written as a decimal number 0 to 255 (30_encoding.md R89). -/
def parseDecimal (t : List Sym) : Option (Sym × List Sym) :=
  let ds := t.takeWhile isDigit
  if ds ≠ [] ∧ decimal ds ≤ 255 then some (BitVec.ofNat 8 (decimal ds), t.dropWhile isDigit) else none

/-- An operand: an 8-bit value in one of the three forms (30_encoding.md R89). -/
def parseOperand (t : List Sym) : Option (Sym × List Sym) :=
  if t.head? = some 0x27#8 then parseChar t
  else if (t.take 2) = text "0x" then parseHex t
  else parseDecimal t

/-- The operands of `.BYTES`, each after at least one blank, up to the end of the line (R90). `fuel` is
at least the length of the text. -/
def parseBytes : Nat → List Sym → Option (List Sym)
  | 0, _ => none
  | fuel + 1, t =>
    if lineDone t then some []
    else if (t.head?.map isBlank) = some true then
      (parseOperand (skipBlanks t)).bind (fun (v, rest) => (parseBytes fuel rest).map (v :: ·))
    else none

/-- The characters of `.MSG "<text>"` after the opening quote, and what follows the closing one
(30_encoding.md R90, "the escapes of rule R89 allowed"). R90 says only "each character of `<text>`":
that a raw character that is not printable (a tab, a code of 0x7F or above) is refused, and that a
`;` is a character like any other, are the model's choices (DESIGN CHOICE, log entry 12). -/
def parseQuoted : List Sym → Option (List Sym × List Sym)
  | [] => none
  | c :: t =>
    if c = 0x22#8 then some ([], t)
    else if c = 0x5C#8 then
      match t with
      | [] => none
      | e :: t' =>
        match escapeCode e, parseQuoted t' with
        | some v, some (m, rest) => some (v :: m, rest)
        | _, _ => none
    else if isPrintable c then
      match parseQuoted t with
      | some (m, rest) => some (c :: m, rest)
      | none => none
    else none

/-- A number 0 to 255 in decimal, without leading zeros (30_encoding.md R89). -/
def decimalText (v : Sym) : List Sym :=
  let digit := fun n : Nat => BitVec.ofNat 8 (0x30 + n)
  let n := v.toNat
  if n < 10 then [digit n]
  else if n < 100 then [digit (n / 10), digit (n % 10)]
  else [digit (n / 100), digit (n / 10 % 10), digit (n % 10)]

/-- The text `t` is the operand `v` in one of the forms of 30_encoding.md R89: `0x` and two hex digits,
a decimal number, a printable character in single quotes, or an escape in them. -/
def spellsOperand (t : List Sym) (v : Sym) : Prop :=
  (∃ a b hi lo, t = text "0x" ++ [a, b] ∧ ascNib a = some hi ∧ ascNib b = some lo ∧ v = hi ++ lo) ∨
  t = decimalText v ∨
  (isPrintable v = true ∧ t = [0x27#8, v, 0x27#8]) ∨
  (v = 0x09#8 ∧ t = text "'\\t'") ∨ (v = 0x0A#8 ∧ t = text "'\\n'") ∨ (v = 0x0D#8 ∧ t = text "'\\r'")

/-- A character as it is written in the text of `.MSG`: by its escape if it has one, else as it is
(30_encoding.md R89, R90). -/
def msgSpelling (c : Sym) : List Sym :=
  if c = 0x09#8 then text "\\t"
  else if c = 0x0A#8 then text "\\n"
  else if c = 0x0D#8 then text "\\r"
  else [c]

/-- The name of a unit (00_scope.md R1). -/
def UnitId.name : UnitId → List Sym
  | .b64e => text "B64E"
  | .b64d => text "B64D"
  | .hexe => text "HEXE"
  | .hexd => text "HEXD"

/-- The name of a kind (30_encoding.md R80). -/
def Kind.name : Kind → List Sym
  | .nop => text "NOP"
  | .data => text "DATA"
  | .fin => text "END"

/-- The unit a line names, and the text after the dot. -/
def parseUnit (t : List Sym) : Option (UnitId × List Sym) :=
  [UnitId.b64e, .b64d, .hexe, .hexd].findSome? (fun u =>
    (afterWord (UnitId.name u ++ text ".") t).map (fun rest => (u, rest)))

/-- The commands of one line: `<UNIT>.<KIND> [<operand>]` (30_encoding.md R89), `<UNIT>.MSG "<text>"` or
`<UNIT>.BYTES b0 b1 ...` (R90), or none for an empty line or a comment. -/
def assembleLine (t : List Sym) : Option (List Instr) :=
  if lineDone t then some []
  else
    (parseUnit (skipBlanks t)).bind (fun (u, rest) =>
      match afterWord (Kind.name .nop) rest, afterWord (Kind.name .fin) rest,
          afterWord (Kind.name .data) rest, afterWord (text "MSG") rest, afterWord (text "BYTES") rest with
      | some r, _, _, _, _ => if lineDone r then some [nopCommand u] else none
      | _, some r, _, _, _ => if lineDone r then some [endCommand u] else none
      | _, _, some r, _, _ =>
        match parseBytes (r.length + 1) r with
        | some [v] => some [dataCommand u v]
        | _ => none
      | _, _, _, some r, _ =>
        match (skipBlanks r) with
        | [] => none
        | q :: r' =>
          if q = 0x22#8 then
            match parseQuoted r' with
            | some (m, r'') => if lineDone r'' then some (message u m) else none
            | none => none
          else none
      | _, _, _, _, some r => (parseBytes (r.length + 1) r).map (message u)
      | _, _, _, _, _ => none)

/-- The commands of a source text, line by line; none if a line is not of the language. -/
def assemble (lines : List (List Sym)) : Option (List Instr) :=
  (lines.mapM assembleLine).map List.flatten

/-- A command as the disassembler prints it: `0x` and two hex digits for the operand of DATA, "no
operand" for NOP and END (30_encoding.md R83, R89). -/
def disassemble (i : Instr) : List Sym :=
  UnitId.name i.unit ++ text "." ++ Kind.name i.kind ++
    (match operand i with
      | some v => text " 0x" ++ hexChars v
      | none => [])

end Sys2Proof.Machine
end

