-- ==== Sys2Proof/Machine/Reference.lean ====
section
/-! DEFINITION. The reference functions of the four units, from a whole message to its outputs
(40_b64_encoder.md R103; 41_b64_decoder.md R121, R122, R130; 42_hex_encoder.md R151;
43_hex_decoder.md R166). They are normative (00_scope.md R10): the machine is stated to agree with
them, and uses none of them. -/

namespace Sys2Proof.Machine

/-- `B64ENC(m)`: a full group while three bytes are left, then the remainder (40_b64_encoder.md R103). -/
def b64enc : List Sym → List Sym
  | [] => []
  | [b0] => chars8 b0
  | [b0, b1] => chars16 b0 b1
  | b0 :: b1 :: b2 :: m => chars24 b0 b1 b2 ++ b64enc m

/-- What a decoder's reference function gives: the bytes appended to the sink and the result. -/
structure Decoded where
  out : List Sym
  result : ResultRecord
  deriving DecidableEq, Repr

/-- `STRIP(t)`, the whitespace stripper (41_b64_decoder.md R121). -/
def strip (t : List Sym) : List Sym := t.filter (fun c => class64 c != .ws)

/-- Groups of 4 symbols from the front; the last has 1 to 4 (41_b64_decoder.md R122). -/
def groups4 : List Sym → List (List Sym)
  | [] => []
  | [a] => [[a]]
  | [a, b] => [[a, b]]
  | [a, b, c] => [[a, b, c]]
  | a :: b :: c :: d :: t => [a, b, c, d] :: groups4 t

/-- A group as accumulation leaves it (41_b64_decoder.md R123). -/
structure GroupState where
  acc : Group
  k : Nat
  v : Nat
  bad : Bool
  deriving DecidableEq, Repr

/-- `ACCUM` over the symbols of a group, up to an invalid one; whitespace cannot occur, since `STRIP`
removed it (41_b64_decoder.md R123). -/
def accumGroup (acc : Group) (k v : Nat) : List Sym → GroupState
  | [] => ⟨acc, k, v, false⟩
  | c :: cs =>
    match class64 c with
    | .pad => accumGroup (accumPad acc) (k + 1) v cs
    | .alpha x => accumGroup (accumAlpha acc x) (k + 1) (v + 1) cs
    | .invalid => ⟨acc, k, v, true⟩
    | .ws => accumGroup acc k v cs

/-- The groups in order, up to the first in error (41_b64_decoder.md R130). -/
def b64decGroups (justify : Bool) (out : List Sym) (count : Nat) : List (List Sym) → Decoded
  | [] => ⟨out, ⟨false, .none, count⟩⟩
  | grp :: rest =>
    let g := accumGroup 0#24 0 0 grp
    let n := byteCount g.v
    let out' := out ++ extractBytes (justifyAcc justify g.acc g.k) n
    if g.bad then ⟨out', ⟨true, .malformedChar, count + n⟩⟩
    else if g.v < 2 then ⟨out', ⟨true, .insufficientGroup, count + n⟩⟩
    else b64decGroups justify out' (count + n) rest

/-- `B64DEC(t)` (41_b64_decoder.md R130). -/
def b64dec (justify : Bool) (t : List Sym) : Decoded := b64decGroups justify [] 0 (groups4 (strip t))

/-- `HEXENC(m)` (42_hex_encoder.md R151). -/
def hexenc : List Sym → List Sym
  | [] => []
  | b :: m => hexChars b ++ hexenc m

/-- The pairs in order, up to the first that is not two digits; then the leftover symbol, which is
never interpreted (43_hex_decoder.md R160, R163 to R166). -/
def hexdecPairs (out : List Sym) (count : Nat) : List Sym → Decoded
  | [] => ⟨out, ⟨false, .none, count⟩⟩
  | [_] => ⟨out, ⟨true, .oddTrailing, count⟩⟩
  | a :: b :: t =>
    match ascNib a, ascNib b with
    | some hi, some lo => hexdecPairs (out ++ [join8 hi lo]) (count + 1) t
    | _, _ => ⟨out, ⟨true, .malformedChar, count⟩⟩

/-- `HEXDEC(t)` (43_hex_decoder.md R166). -/
def hexdec (t : List Sym) : Decoded := hexdecPairs [] 0 t

end Sys2Proof.Machine
end

