-- ==== Sys2Proof/Safety.lean ====
section
/-! DEFINITION. What every state of a run from reset meets: the invariants of 10_state.md R22, R24
and R26, in the terms the statements use. -/

namespace Sys2Proof.Machine

/-- The invariant of B64D's registers (10_state.md R24). -/
abbrev B64D.Inv (r : B64D) : Prop :=
  r.d_nvalid.toNat ≤ r.d_pos.toNat ∧
  r.d_acc.toNat < 2 ^ (6 * r.d_pos.toNat) ∧
  (r.d_fail = false ↔ r.d_cause = .none) ∧
  r.d_cause ≠ .oddTrailing ∧
  (r.d_fail = true → r.d_pos = 0#2 ∧ r.d_nvalid = 0#2 ∧ r.d_acc = 0#24)

/-- The invariant of HEXD's registers (10_state.md R26). -/
abbrev HEXD.Inv (r : HEXD) : Prop :=
  (r.h_fail = false ↔ r.h_cause = .none) ∧
  r.h_cause ≠ .insufficientGroup ∧
  (r.h_fail = true → r.h_phase = false) ∧
  (r.h_hi_ok = false → r.h_hi = 0#4)

/-- The invariant of the machine: the registers of both decoders, and `CNT_W` at least 1
(10_state.md R24, R26; 00_scope.md R5). B64E needs none: `e_phase` = 3 is no value of its type
(R22). -/
abbrev State.Inv (s : State) : Prop := 1 ≤ s.params.cntW ∧ s.b64d.Inv ∧ s.hexd.Inv

/-- A record a decoder can emit: "0 exactly when `fail` = 0", and a `count` of `CNT_W` bits
(10_state.md R30). -/
abbrev ResultRecord.Ok (cntW : Nat) (r : ResultRecord) : Prop :=
  (r.fail = false ↔ r.cause = .none) ∧ r.count < 2 ^ cntW

/-- A character of encoded base64 text: an entry of `ALPHA64`, or `PAD` (40_b64_encoder.md R108). -/
def isB64Char (c : Sym) : Bool :=
  (0x41 ≤ c.toNat && c.toNat ≤ 0x5A) || (0x61 ≤ c.toNat && c.toNat ≤ 0x7A) ||
    (0x30 ≤ c.toNat && c.toNat ≤ 0x39) || c == 0x2B#8 || c == 0x2F#8 || c == 0x3D#8

/-- A lower-case hex digit (42_hex_encoder.md R155). -/
def isHexChar (c : Sym) : Bool :=
  (0x30 ≤ c.toNat && c.toNat ≤ 0x39) || (0x61 ≤ c.toNat && c.toNat ≤ 0x66)

/-- What the streams hold: encoders emit characters of their alphabet only, and a record of a
decoder has a cause of that decoder (40_b64_encoder.md R108; 42_hex_encoder.md R155; 60_exceptions.md
R181; 10_state.md R30). -/
abbrev State.StreamsInv (s : State) : Prop :=
  (∀ c ∈ s.sinks.b64e_out, isB64Char c = true) ∧
  (∀ c ∈ s.sinks.hexe_out, isHexChar c = true) ∧
  (∀ r ∈ s.sinks.b64d_res, r.Ok s.params.cntW ∧ r.cause ≠ .oddTrailing) ∧
  (∀ r ∈ s.sinks.hexd_res, r.Ok s.params.cntW ∧ r.cause ≠ .insufficientGroup)

/-- Every word the host has issued is a command: what a conforming host does (30_encoding.md R82, R86;
70_reset_and_hazards.md R208). -/
abbrev State.HostConforms (s : State) : Prop := ∀ w, HostInput.word w ∈ s.input → w.wf = true

end Sys2Proof.Machine
end

