-- ==== Sys2Proof/Certificates/Slice0/Obligations.lean ====
section
/-! DEFINITION. What is claimed of the model, for the provers. Each docstring names the rule of spec/
it formalises; `OBLIGATIONS.json` lists them. -/

open Sys2Proof Sys2Proof.Machine

/-! ### Command words (30_encoding.md) -/

/-- Words written out from 30_encoding.md R85 and 95_test_vectors.md 3.6 decode to their commands. -/
def Obligations.WrittenWordsDecode : Prop :=
  decodeWord 0b0000000000000000#16 = .ok .b64eNop ∧
  decodeWord 0b0000000101001001#16 = .ok (.b64eData 0x49#8) ∧
  decodeWord 0b0000001010100101#16 = .ok .b64eEnd ∧
  decodeWord 0b0000010000000000#16 = .ok .b64dNop ∧
  decodeWord 0b0000010100111101#16 = .ok (.b64dData 0x3D#8) ∧
  decodeWord 0b0000011000000000#16 = .ok .b64dEnd ∧
  decodeWord 0b0000100000000000#16 = .ok .hexeNop ∧
  decodeWord 0b0000100111111111#16 = .ok (.hexeData 0xFF#8) ∧
  decodeWord 0b0000101000000000#16 = .ok .hexeEnd ∧
  decodeWord 0b0000110000000000#16 = .ok .hexdNop ∧
  decodeWord 0b0000110101100110#16 = .ok (.hexdData 0x66#8) ∧
  decodeWord 0b0000111000000000#16 = .ok .hexdEnd ∧
  decodeWord 0b0000101100010010#16 = .error .reservedKind ∧
  decodeWord 0b0001000101001001#16 = .error .highBitsSet

/-- 30_encoding.md R85, R86: a row of the opcode map selects exactly the words of its command, `data`
being the operand; a reserved pattern selects words that are no command; and each of the 4096 words is
selected by exactly one of the 16 patterns. -/
def Obligations.OpcodeMapPartitionsTheWords : Prop :=
  ∀ w : Cmd,
    (∀ r ∈ opcodeTable, r.selects w = true →
      decodeCmd w = .ok (Instr.ofFields r.unit r.kind (w.extractLsb' 0 8))) ∧
    (∀ p ∈ reservedPatterns, w &&& 0xF00#12 = p → decodeCmd w = .error .reservedKind) ∧
    opcodeTable.countP (fun r => r.selects w) +
      reservedPatterns.countP (fun p => w &&& 0xF00#12 == p) = 1

/-- Decode and encode agree, in the container, as a 12-bit word and at a unit's own port, for every
command and every operand (30_encoding.md R81, R82, R83). -/
def Obligations.DecodeInvertsEncode : Prop :=
  ∀ i : Instr, i.wf = true →
    decodeWord (encodeWord i) = .ok i ∧ decodeCmd (encodeCmd i) = .ok i ∧
    decodePort i.unit (encodePort i) = .ok i ∧ (encodeWord i).wf = true

/-- 30_encoding.md R82, R83, R86: a container decodes exactly when its high bits are clear and its
`kind` is not reserved; the decoder says which check failed; and the word of the command it reads is
that word, its `data` field zeroed where the command ignores it. -/
def Obligations.DecodeAcceptsExactlyTheCommands : Prop :=
  ∀ w : Word,
    (w.extractLsb' 12 4 ≠ 0#4 → decodeWord w = .error .highBitsSet) ∧
    (w.extractLsb' 12 4 = 0#4 → w.extractLsb' 8 2 = 0b11#2 → decodeWord w = .error .reservedKind) ∧
    (w.extractLsb' 12 4 = 0#4 → w.extractLsb' 8 2 ≠ 0b11#2 →
      ∃ i, decodeWord w = .ok i ∧
        encodeWord i = if i.kind = .data then w else w &&& 0xFF00#16)

/-- 30_encoding.md R81: at a unit's own command port "the `unit` field is implied by the port and the
command is the low 10 bits, `kind ‖ data`". -/
def Obligations.PortImpliesTheUnit : Prop :=
  ∀ (u : UnitId) (c : PortCmd), decodePort u c = decodeCmd (u.code ++ c)

/-- The assembler reads back what the disassembler prints: `0x` and two hex digits for the operand of
DATA, no operand for NOP and END (30_encoding.md R83, R89; the text's form by log entry 12). -/
def Obligations.AssemblerReadsTheDisassembly : Prop :=
  ∀ i : Instr, assembleLine (disassemble i) = some [i] ∧
    disassemble i = Machine.UnitId.name i.unit ++ text "." ++ Kind.name i.kind ++
      (if i.kind = .data then text " 0x" ++ hexChars i.dataField else [])

/-- 30_encoding.md R90: `.MSG "<text>"` "expands to `<UNIT>.DATA c` for each character `c` of
`<text>` in order (the escapes of rule R89 allowed), then `<UNIT>.END`", for a text of printable
characters other than the quote and the backslash, and of tabs, newlines and carriage returns
written by their escapes; `.BYTES b0 b1 ... b(n-1)` expands to DATA for each `bi`, then END, each in
any form of R89; with nothing to present both are END alone. That a semicolon inside the quotes, of
`.MSG` or of an operand, is a character and starts no comment, that the quote and the backslash
may stand in single quotes, and that hex digits may be of either case, are the model's choices (log
entry 12). -/
def Obligations.PseudoInstructionsExpandToTheMessage : Prop :=
  ∀ (u : UnitId),
    (∀ m : List Sym,
      (∀ c ∈ m, (isPrintable c = true ∧ c ≠ 0x22#8 ∧ c ≠ 0x5C#8) ∨
        c = 0x09#8 ∨ c = 0x0A#8 ∨ c = 0x0D#8) →
      assembleLine (Machine.UnitId.name u ++ text ".MSG \"" ++ (m.map msgSpelling).flatten ++
          text "\"") =
        some (m.map (dataCommand u) ++ [endCommand u])) ∧
    (∀ bs : List (List Sym × Sym), (∀ b ∈ bs, spellsOperand b.1 b.2) →
      assembleLine (Machine.UnitId.name u ++ text ".BYTES" ++
          (bs.map (fun b => text " " ++ b.1)).flatten) =
        some (bs.map (fun b => dataCommand u b.2) ++ [endCommand u]))

/-! ### Steps, the host's inputs and programs -/

/-- A step runs the decoded command: the word is consumed and its command executed (30_encoding.md R93;
20_memory.md R70). That it is executed, and not discarded, where a RESET stands later in the input is the
model's choice (70_reset_and_hazards.md R201; log entry 17). -/
def Obligations.StepRunsTheDecodedCommand : Prop :=
  ∀ (s : State) (w : Word) (rest : List HostInput) (i : Instr),
    s.input = .word w :: rest → decodeWord w = .ok i →
    step s = exec i { s with input := rest }

/-- 30_encoding.md R82, R86: a word that is no command is refused by name, whatever the state. R86
leaves open what the hardware does with `kind` = 3 and says that a model refuses it: the refusal of a
reserved kind is the model's treatment (log entry 4), and so is reading the word where a RESET stands later
in the input (log entry 17). -/
def Obligations.StepRefusesWordsThatAreNoCommand : Prop :=
  ∀ (s : State) (w : Word) (rest : List HostInput), s.input = .word w :: rest →
    (w.extractLsb' 12 4 ≠ 0#4 → step s = .refused .highBitsSet) ∧
    (w.extractLsb' 12 4 = 0#4 → w.extractLsb' 8 2 = 0b11#2 → step s = .refused .reservedKind)

/-- 70_reset_and_hazards.md R200, R201 and 10_state.md R34: RESET sets every register of every unit to
zero, emits nothing, and leaves the streams as they are. -/
def Obligations.ResetInputClearsEveryRegister : Prop :=
  ∀ (s : State) (rest : List HostInput), s.input = .reset :: rest →
    step s = .next
      { s with
        input := rest
        b64e := { e_phase := 0, e_b0 := 0#8, e_b1 := 0#8 }
        b64d := { d_acc := 0#24, d_pos := 0#2, d_nvalid := 0#2, d_count := 0,
                  d_fail := false, d_cause := .none }
        hexd := { h_phase := false, h_hi_ok := false, h_hi := 0#4, h_count := 0,
                  h_fail := false, h_cause := .none } }

/-- The model's choice of log entry 3: with nothing issued by the host, a step changes nothing. -/
def Obligations.StepIdlesWithoutInput : Prop :=
  ∀ s : State, s.input = [] → step s = .next s

/-- 30_encoding.md R93: a program is issued word by word and its commands are executed in list order;
what the host issued after it is still there. Where a RESET is among that, its executing the
program first is the model's choice (70_reset_and_hazards.md R201; log entry 17). -/
def Obligations.IssuedProgramRunsInOrder : Prop :=
  ∀ (is : List Instr) (s : State) (rest : List HostInput),
    Host.Core.run core is.length
        ({ s with input := is.map (fun i => HostInput.word (encodeWord i)) ++ rest } : State) =
      runCommands is { s with input := rest }

/-- 60_exceptions.md R180 and 70_reset_and_hazards.md R208: with a conforming host no number of steps
ends in a fault or a refusal. Steps after the last input are the idle steps of log entry 3, the
model's choice. -/
def Obligations.ConformingHostIsNeverStopped : Prop :=
  ∀ (s : State) (n : Nat), s.HostConforms → ∃ t, Host.Core.run core n s = .next t ∧ t.HostConforms

/-! ### The commands, one by one -/

/-- `B64E.NOP`, `B64D.NOP`, `HEXE.NOP`, `HEXD.NOP` change nothing, in any state, and their `data` field
is ignored (40_b64_encoder.md R104; 41_b64_decoder.md R132; 42_hex_encoder.md R152; 43_hex_decoder.md
R167). -/
def Obligations.NopsChangeNothing : Prop :=
  ∀ (s : State) (x : Sym),
    decodeCmd (0b0000#4 ++ x) = .ok .b64eNop ∧ exec .b64eNop s = .next s ∧
    decodeCmd (0b0100#4 ++ x) = .ok .b64dNop ∧ exec .b64dNop s = .next s ∧
    decodeCmd (0b1000#4 ++ x) = .ok .hexeNop ∧ exec .hexeNop s = .next s ∧
    decodeCmd (0b1100#4 ++ x) = .ok .hexdNop ∧ exec .hexdNop s = .next s

/-- `B64E.DATA arg` (40_b64_encoder.md R105): the first two bytes of a group are held; the third emits
the four characters of `G = b0 ‖ b1 ‖ b2` (20_memory.md R56) and leaves `e_b0`, `e_b1` as they are. -/
def Obligations.B64eDataHoldsThenEmits : Prop :=
  ∀ (s : State) (a : Sym),
    decodeCmd (0b0001#4 ++ a) = .ok (.b64eData a) ∧
    (s.b64e.e_phase = 0 → exec (.b64eData a) s =
      .next { s with b64e := { e_phase := 1, e_b0 := a, e_b1 := s.b64e.e_b1 } }) ∧
    (s.b64e.e_phase = 1 → exec (.b64eData a) s =
      .next { s with b64e := { e_phase := 2, e_b0 := s.b64e.e_b0, e_b1 := a } }) ∧
    (s.b64e.e_phase = 2 → exec (.b64eData a) s =
      .next { s with
        b64e := { e_phase := 0, e_b0 := s.b64e.e_b0, e_b1 := s.b64e.e_b1 }
        sinks := { s.sinks with
          b64e_out := s.sinks.b64e_out ++
            (let g : Group := s.b64e.e_b0 ++ s.b64e.e_b1 ++ a
             [alpha64 (g.extractLsb' 18 6), alpha64 (g.extractLsb' 12 6),
              alpha64 (g.extractLsb' 6 6), alpha64 (g.extractLsb' 0 6)]) } })

/-- `B64E.END` (40_b64_encoder.md R106, with R101 and R102 in their shift and mask form): a remainder of
one byte gives two characters and two `=`, of two bytes three characters and one `=`, of none nothing;
then every register of B64E is zero. -/
def Obligations.B64eEndPadsTheRemainder : Prop :=
  ∀ (s : State) (x : Sym),
    decodeCmd (0b0010#4 ++ x) = .ok .b64eEnd ∧
    exec .b64eEnd s =
      .next { s with
        b64e := { e_phase := 0, e_b0 := 0#8, e_b1 := 0#8 }
        sinks := { s.sinks with
          b64e_out := s.sinks.b64e_out ++
            (let b0 := s.b64e.e_b0.toNat
             let b1 := s.b64e.e_b1.toNat
             let digit := fun n : Nat => alpha64 (BitVec.ofNat 6 n)
             if s.b64e.e_phase = 1 then
               [digit (b0 >>> 2), digit ((b0 &&& 3) <<< 4), 0x3D#8, 0x3D#8]
             else if s.b64e.e_phase = 2 then
               [digit (b0 >>> 2), digit (((b0 &&& 3) <<< 4) ||| (b1 >>> 4)),
                digit ((b1 &&& 15) <<< 2), 0x3D#8]
             else []) } }

/-- `CloseGroup(acc, k, v, bad)` (41_b64_decoder.md R127; 60_exceptions.md R187, R188): the bytes are
emitted whether or not the group is in error, the count grows by their number, the error is entered
with MALFORMED_CHAR before INSUFFICIENT_GROUP, and the group registers are cleared. -/
def Obligations.GroupCloseEmitsCountsAndJudges : Prop :=
  ∀ (s : State) (acc : Group) (k v : Nat) (bad : Bool), v ≤ 4 →
    s.closeGroup acc k v bad =
      { s with
        b64d :=
          { d_acc := 0#24, d_pos := 0#2, d_nvalid := 0#2,
            d_count := s.b64d.d_count + (v - 1),
            d_fail := bad || decide (v < 2) || s.b64d.d_fail,
            d_cause := if bad then .malformedChar else if v < 2 then .insufficientGroup
              else s.b64d.d_cause }
        sinks := { s.sinks with
          b64d_out := s.sinks.b64d_out ++
            (let acc' : Group := if s.params.justify then acc <<< (6 * (4 - k)) else acc
             [acc'.extractLsb' 16 8, acc'.extractLsb' 8 8, acc'.extractLsb' 0 8].take (v - 1)) } }

/-- `B64D.DATA arg` (41_b64_decoder.md R133): nothing while STOPPED; while RUNNING nothing on
whitespace, the group closed as errored on an invalid symbol, and a padding or alphabet symbol
accumulated, the fourth one closing the group. The last clauses, which store into the 2-bit
`d_nvalid`, are over states that meet the invariant `d_nvalid` ≤ `d_pos` of 10_state.md R24. -/
def Obligations.B64dDataByClass : Prop :=
  ∀ (s : State) (a : Sym),
    decodeCmd (0b0101#4 ++ a) = .ok (.b64dData a) ∧
    (s.b64d.d_fail = true → exec (.b64dData a) s = .next s) ∧
    (s.b64d.d_fail = false →
      (class64 a = .ws → exec (.b64dData a) s = .next s) ∧
      (class64 a = .invalid → exec (.b64dData a) s =
        .next (s.closeGroup s.b64d.d_acc s.b64d.d_pos.toNat s.b64d.d_nvalid.toNat true)) ∧
      (class64 a = .pad → s.b64d.d_pos = 3#2 → exec (.b64dData a) s =
        .next (s.closeGroup (s.b64d.d_acc <<< 6) 4 s.b64d.d_nvalid.toNat false)) ∧
      (class64 a = .pad → s.b64d.d_pos ≠ 3#2 → exec (.b64dData a) s =
        .next { s with b64d := { s.b64d with
          d_acc := s.b64d.d_acc <<< 6, d_pos := s.b64d.d_pos + 1#2 } }) ∧
      (∀ x, class64 a = .alpha x → s.b64d.d_pos = 3#2 → exec (.b64dData a) s =
        .next (s.closeGroup (s.b64d.d_acc <<< 6 ||| x.setWidth 24) 4
          (s.b64d.d_nvalid.toNat + 1) false)) ∧
      (∀ x, class64 a = .alpha x → s.b64d.d_pos ≠ 3#2 →
        s.b64d.d_nvalid.toNat ≤ s.b64d.d_pos.toNat → exec (.b64dData a) s =
        .next { s with b64d := { s.b64d with
          d_acc := s.b64d.d_acc <<< 6 ||| x.setWidth 24
          d_pos := s.b64d.d_pos + 1#2
          d_nvalid := s.b64d.d_nvalid + 1#2 } }))

/-- `B64D.END` (41_b64_decoder.md R134) for a message inside the counter envelope (70_reset_and_hazards.md
R207): a short last group closes first, its bytes before the record; the record carries the values
after it; then every register is zero. In STOPPED, or with no group open, the registers are reported
as they are. -/
def Obligations.B64dEndReportsAndClears : Prop :=
  ∀ (s : State) (x : Sym),
    decodeCmd (0b0110#4 ++ x) = .ok .b64dEnd ∧
    (let c : State := if s.b64d.d_fail = false ∧ s.b64d.d_pos ≠ 0#2 then
        s.closeGroup s.b64d.d_acc s.b64d.d_pos.toNat s.b64d.d_nvalid.toNat false else s
     c.b64d.d_count < 2 ^ s.params.cntW →
     exec .b64dEnd s =
       .next { s with
         b64d := { d_acc := 0#24, d_pos := 0#2, d_nvalid := 0#2, d_count := 0,
                   d_fail := false, d_cause := .none }
         sinks := { s.sinks with
           b64d_out := c.sinks.b64d_out
           b64d_res := s.sinks.b64d_res ++
             [{ fail := c.b64d.d_fail, cause := c.b64d.d_cause, count := c.b64d.d_count }] } })

/-- `HEXE.DATA arg` emits the digits of the high nibble and then of the low one, and changes nothing
else; `HEXE.END` does nothing (42_hex_encoder.md R153, R154). -/
def Obligations.HexeDataEmitsTwoDigits : Prop :=
  ∀ (s : State) (a x : Sym),
    decodeCmd (0b1001#4 ++ a) = .ok (.hexeData a) ∧
    exec (.hexeData a) s =
      .next { s with sinks := { s.sinks with
        hexe_out := s.sinks.hexe_out ++
          [nibAsc (BitVec.ofNat 4 (a.toNat / 16)), nibAsc (BitVec.ofNat 4 (a.toNat % 16))] } } ∧
    decodeCmd (0b1010#4 ++ x) = .ok .hexeEnd ∧ exec .hexeEnd s = .next s

/-- `HEXD.DATA arg` (43_hex_decoder.md R168): nothing while STOPPED; the first symbol of a pair is held
as its classification; the second emits and counts one byte if both are digits, else it enters
MALFORMED_CHAR and emits nothing. -/
def Obligations.HexdDataHoldsThenJudges : Prop :=
  ∀ (s : State) (a : Sym),
    decodeCmd (0b1101#4 ++ a) = .ok (.hexdData a) ∧
    (s.hexd.h_fail = true → exec (.hexdData a) s = .next s) ∧
    (s.hexd.h_fail = false → s.hexd.h_phase = false →
      (∀ n, ascNib a = some n → exec (.hexdData a) s =
        .next { s with hexd := { s.hexd with h_phase := true, h_hi_ok := true, h_hi := n } }) ∧
      (ascNib a = none → exec (.hexdData a) s =
        .next { s with hexd := { s.hexd with h_phase := true, h_hi_ok := false, h_hi := 0#4 } })) ∧
    (s.hexd.h_fail = false → s.hexd.h_phase = true →
      (∀ n, s.hexd.h_hi_ok = true → ascNib a = some n → exec (.hexdData a) s =
        .next { s with
          hexd := { s.hexd with h_phase := false, h_count := s.hexd.h_count + 1 }
          sinks := { s.sinks with
            hexd_out := s.sinks.hexd_out ++
              [BitVec.ofNat 8 (16 * s.hexd.h_hi.toNat + n.toNat)] } }) ∧
      (s.hexd.h_hi_ok = false ∨ ascNib a = none → exec (.hexdData a) s =
        .next { s with
          hexd := { s.hexd with h_phase := false, h_fail := true, h_cause := .malformedChar } }))

/-- `HEXD.END` (43_hex_decoder.md R169) for a message inside the counter envelope: a held symbol while
RUNNING is reported as ODD_TRAILING whatever it is; no byte is emitted; then every register is zero. -/
def Obligations.HexdEndReportsAndClears : Prop :=
  ∀ (s : State) (x : Sym),
    decodeCmd (0b1110#4 ++ x) = .ok .hexdEnd ∧
    (s.hexd.h_count < 2 ^ s.params.cntW →
     exec .hexdEnd s =
       .next { s with
         hexd := { h_phase := false, h_hi_ok := false, h_hi := 0#4, h_count := 0,
                   h_fail := false, h_cause := .none }
         sinks := { s.sinks with
           hexd_res := s.sinks.hexd_res ++
             [if s.hexd.h_fail = false ∧ s.hexd.h_phase = true then
                { fail := true, cause := .oddTrailing, count := s.hexd.h_count }
              else
                { fail := s.hexd.h_fail, cause := s.hexd.h_cause, count := s.hexd.h_count }] } })

/-- 70_reset_and_hazards.md R207 and log entry 7: outside the counter envelope the ENDs of the decoders
complete as well; what they emit, their `fail` and `cause` and the cleared registers are as inside it,
and only the `count` of the record is open, a value of `CNT_W` bits. -/
def Obligations.EndOutsideTheEnvelopeLeavesOnlyCountOpen : Prop :=
  ∀ s : State,
    (∃ n f, n < 2 ^ s.params.cntW ∧ exec .b64dEnd s = .next
      { s with
        b64d := .reset, freeD := f
        sinks := { s.sinks with
          b64d_out := s.closeLastGroup.sinks.b64d_out
          b64d_res := s.sinks.b64d_res ++
            [{ fail := s.closeLastGroup.b64d.d_fail, cause := s.closeLastGroup.b64d.d_cause,
               count := n }] } }) ∧
    (∃ n f, n < 2 ^ s.params.cntW ∧ exec .hexdEnd s = .next
      { s with
        hexd := .reset, freeH := f
        sinks := { s.sinks with
          hexd_res := s.sinks.hexd_res ++
            [{ fail := s.hexd.judgeEnd.h_fail, cause := s.hexd.judgeEnd.h_cause, count := n }] } })

/-! ### Tables and repackers -/

/-- 20_memory.md R52, R53 and 41_b64_decoder.md R137: `CLASS64[c]` = `ALPHA(v)` exactly when
`ALPHA64[v]` = `c`, so the linear scan of the alphabet finds what the classifier finds; the
whitespace class is exactly the four codes, the padding class exactly 0x3D. -/
def Obligations.ClassifierInvertsTheAlphabet : Prop :=
  ∀ c : Sym,
    (∀ v, class64 c = .alpha v ↔ alpha64 v = c) ∧
    scanAlpha64 c = (match class64 c with | .alpha v => some v | _ => none) ∧
    (class64 c = .ws ↔ c ∈ [0x20#8, 0x09#8, 0x0A#8, 0x0D#8]) ∧
    (class64 c = .pad ↔ c = 0x3D#8)

/-- 20_memory.md R54, R55: `ASCNIB[c]` = `DIGIT(n)` exactly when `c` is the digit `NIBASC[n]` or the
same letter in upper case. -/
def Obligations.HexClassifierInvertsTheDigits : Prop :=
  ∀ (c : Sym) (n : Nibble),
    ascNib c = some n ↔ (nibAsc n = c ∨ (10 ≤ n.toNat ∧ c.toNat = 0x41 + (n.toNat - 10)))

/-- 40_b64_encoder.md R100, 20_memory.md R56, 41_b64_decoder.md R125: the four digit values side by side
are the three bytes side by side, so `REPACK24` is a bijection; and for a full group `EXTRACT(acc, 3)`
undoes it, the four digit values being accumulated in order. -/
def Obligations.Repack24RegroupsTheBits : Prop :=
  (∀ b0 b1 b2 : Sym, (let r := repack24 b0 b1 b2
    r.1 ++ r.2.1 ++ r.2.2.1 ++ r.2.2.2) = b0 ++ b1 ++ b2) ∧
  Function.Bijective (fun b : Sym × Sym × Sym => repack24 b.1 b.2.1 b.2.2) ∧
  (∀ b0 b1 b2 : Sym, (match repack24 b0 b1 b2 with
    | (c0, c1, c2, c3) =>
      extractBytes (accumAlpha (accumAlpha (accumAlpha (accumAlpha 0#24 c0) c1) c2) c3) 3) =
        [b0, b1, b2])

/-- 40_b64_encoder.md R101, R102: the repackers of the remainders are those of a full group whose
missing bytes are zero. -/
def Obligations.RemaindersAreZeroExtendedGroups : Prop :=
  ∀ b0 b1 : Sym,
    repack8 b0 = ((repack24 b0 0#8 0#8).1, (repack24 b0 0#8 0#8).2.1) ∧
    repack16 b0 b1 = ((repack24 b0 b1 0#8).1, (repack24 b0 b1 0#8).2.1, (repack24 b0 b1 0#8).2.2.1)

/-- 00_scope.md R7 (a), (b) and 41_b64_decoder.md R123: while fewer than four symbols are accumulated no
set bit is lost and `|` is `+`, so the accumulator is the base-64 number of the digits. -/
def Obligations.AccumulationLosesNoBit : Prop :=
  ∀ (acc : Group) (k : Nat) (x : Sextet), k < 4 → acc.toNat < 2 ^ (6 * k) →
    (accumPad acc).toNat = 64 * acc.toNat ∧
    (accumAlpha acc x).toNat = 64 * acc.toNat + x.toNat ∧
    (accumAlpha acc x).toNat < 2 ^ (6 * (k + 1))

/-- 42_hex_encoder.md R150 and 43_hex_decoder.md R162: `SPLIT8` and `JOIN8` are inverse to each other. -/
def Obligations.SplitAndJoinAreInverse : Prop :=
  (∀ b : Sym, join8 (split8 b).1 (split8 b).2 = b) ∧
  (∀ hi lo : Nibble, split8 (join8 hi lo) = (hi, lo))

/-- 10_state.md R30 and 30_encoding.md R92: the packed record is `fail | cause << 1 | count << 3`, its
fields do not overlap, and as bits it is the layout of the table when `count` fits. -/
def Obligations.PackedRecordKeepsItsFields : Prop :=
  ∀ (r : ResultRecord) (w : Nat),
    r.pack = (if r.fail then 1 else 0) + 2 * r.cause.code.toNat + 8 * r.count ∧
    r.pack % 2 = (if r.fail then 1 else 0) ∧ r.pack / 2 % 4 = r.cause.code.toNat ∧
    r.pack / 8 = r.count ∧
    (r.count < 2 ^ w → (r.packBits w).toNat = r.pack)

/-! ### The reference functions -/

/-- 40_b64_encoder.md R108 (a) to (d): the length is 4 * ceil(n / 3); the characters are those of the
alphabet, and then 2, 1 or 0 padding characters for a remainder of 1, 2 or 0 bytes; and whole groups in
front are encoded on their own. -/
def Obligations.B64encLengthAlphabetPaddingAndGroups : Prop :=
  ∀ m : List Sym,
    (b64enc m).length = 4 * ((m.length + 2) / 3) ∧
    (∃ body, b64enc m = body ++ List.replicate ((3 - m.length % 3) % 3) 0x3D#8 ∧
      (∀ c ∈ body, ∃ v, alpha64 v = c)) ∧
    (∀ t : List Sym, m.length % 3 = 0 → b64enc (m ++ t) = b64enc m ++ b64enc t)

/-- 41_b64_decoder.md R136 (a): the round trip, for both values of `B64D_JUSTIFY`. -/
def Obligations.B64RoundTrip : Prop :=
  ∀ (j : Bool) (m : List Sym),
    b64dec j (b64enc m) = ⟨m, { fail := false, cause := .none, count := m.length }⟩

/-- 41_b64_decoder.md R136 (c): a text whose stripped form is an output of the encoder decodes to bytes
that encode to its stripped form. -/
def Obligations.B64EncodeOfDecode : Prop :=
  ∀ (j : Bool) (x : List Sym), (∃ m, strip x = b64enc m) →
    b64enc (b64dec j x).out = strip x ∧ (b64dec j x).result.fail = false

/-- 90_conflicts.md C3 and 93_implementation_defined.md U2: the result and the number of bytes do not
depend on `B64D_JUSTIFY`; nor do the bytes of the groups that close with four accumulated symbols
(41_b64_decoder.md R126). If `t` is made of such groups, its bytes open the output of every text `t ++ u`
under either setting, whatever `u` holds; and for `u` empty they are the whole output. -/
def Obligations.JustifyChangesOnlyBytesOfShortGroups : Prop :=
  (∀ t : List Sym,
    (b64dec true t).result = (b64dec false t).result ∧
    (b64dec true t).out.length = (b64dec false t).out.length) ∧
  (∀ t : List Sym, (strip t).length % 4 = 0 → (∀ c ∈ t, class64 c ≠ .invalid) →
    b64dec true t = b64dec false t ∧
    ∀ (j k : Bool) (u : List Sym), (b64dec j t).out <+: (b64dec k (t ++ u)).out)

/-- 41_b64_decoder.md R130 and 43_hex_decoder.md R166: "`count` always equals `len(out)`"; `fail` and
`cause` agree; and a decoder gives only its own causes (60_exceptions.md R181). -/
def Obligations.DecodersCountTheirOutput : Prop :=
  ∀ (j : Bool) (t : List Sym),
    (b64dec j t).result.count = (b64dec j t).out.length ∧
    ((b64dec j t).result.fail = false ↔ (b64dec j t).result.cause = .none) ∧
    (b64dec j t).result.cause ≠ .oddTrailing ∧
    (hexdec t).result.count = (hexdec t).out.length ∧
    ((hexdec t).result.fail = false ↔ (hexdec t).result.cause = .none) ∧
    (hexdec t).result.cause ≠ .insufficientGroup

/-- 41_b64_decoder.md R128: nothing after the group an invalid symbol closed is examined. -/
def Obligations.B64decIgnoresTextAfterAMalformedSymbol : Prop :=
  ∀ (j : Bool) (t u : List Sym),
    (b64dec j t).result.cause = .malformedChar → b64dec j (t ++ u) = b64dec j t

/-- 41_b64_decoder.md R131, R127: padding is accepted at every position. A text without invalid symbol
fails only for a group with fewer than two alphabet characters. -/
def Obligations.PaddingIsNeverMalformed : Prop :=
  ∀ (j : Bool) (t : List Sym), (∀ c ∈ t, class64 c ≠ .invalid) →
    (b64dec j t).result.cause ≠ .malformedChar ∧
    ((b64dec j t).result.fail = true ↔
      ∃ g ∈ groups4 (strip t), g.countP (fun c => class64 c != .pad) < 2)

/-- 42_hex_encoder.md R155 (a), (b): two lower-case digits per byte, byte by byte. -/
def Obligations.HexencLengthAlphabetAndAppend : Prop :=
  ∀ m t : List Sym,
    (hexenc m).length = 2 * m.length ∧ (∀ c ∈ hexenc m, ∃ n, nibAsc n = c) ∧
    hexenc (m ++ t) = hexenc m ++ hexenc t

/-- 43_hex_decoder.md R171 (a), (d): the round trip, and in the other direction the text in lower
case. -/
def Obligations.HexRoundTrip : Prop :=
  (∀ m : List Sym, hexdec (hexenc m) = ⟨m, { fail := false, cause := .none, count := m.length }⟩) ∧
  (∀ t : List Sym, t.length % 2 = 0 → (∀ c ∈ t, (ascNib c).isSome = true) →
    hexenc (hexdec t).out = t.map (fun c => if 0x41 ≤ c.toNat ∧ c.toNat ≤ 0x46 then c + 0x20#8 else c))

/-- 43_hex_decoder.md R163, R164, R165: after `p` pairs of digits the end of the text is success with
count `p`; one more symbol, whatever it is, is ODD_TRAILING; a pair with an invalid symbol is
MALFORMED_CHAR, emits nothing, and nothing after it is read. -/
def Obligations.HexdecJudgesPairByPair : Prop :=
  ∀ (t u : List Sym) (a b : Sym), t.length % 2 = 0 → (∀ c ∈ t, (ascNib c).isSome = true) →
    (hexdec t).out.length = t.length / 2 ∧
    (hexdec t).result = { fail := false, cause := .none, count := t.length / 2 } ∧
    hexdec (t ++ [a]) =
      ⟨(hexdec t).out, { fail := true, cause := .oddTrailing, count := t.length / 2 }⟩ ∧
    (ascNib a = none ∨ ascNib b = none → hexdec (t ++ a :: b :: u) =
      ⟨(hexdec t).out, { fail := true, cause := .malformedChar, count := t.length / 2 }⟩)

/-! ### Agreement of the machine with the reference functions -/

/-- 40_b64_encoder.md R107: from `e_phase` = 0, a presented message, with any NOPs in between, appends
exactly `B64ENC(m)` and leaves B64E in the reset state; nothing else changes. -/
def Obligations.B64eRefinesB64enc : Prop :=
  ∀ (s : State) (m : List Sym) (is : List Instr),
    s.b64e.e_phase = 0 → presents .b64e m is →
    runCommands is s = .next
      { s with
        b64e := .reset
        sinks := { s.sinks with b64e_out := s.sinks.b64e_out ++ b64enc m } }

/-- 41_b64_decoder.md R135, for both values of `B64D_JUSTIFY` and every `CNT_W`: from the reset state of
B64D a presented message appends exactly `B64DEC(t)`'s bytes, one record with its `fail` and `cause`
and, inside the counter envelope (R207), its `count`, and leaves B64D in the reset state; the bytes
do not depend on the counter. R207 does not specify `count` outside the envelope: that the record
then carries some number of `CNT_W` bits is the model's choice (log entry 7). -/
def Obligations.B64dRefinesB64dec : Prop :=
  ∀ (s : State) (t : List Sym) (is : List Instr),
    s.b64d = .reset → presents .b64d t is →
    ∃ n f, n < 2 ^ s.params.cntW ∧
      ((b64dec s.params.justify t).out.length < 2 ^ s.params.cntW →
        n = (b64dec s.params.justify t).result.count ∧ f = s.freeD) ∧
      runCommands is s = .next
        { s with
          freeD := f
          sinks := { s.sinks with
            b64d_out := s.sinks.b64d_out ++ (b64dec s.params.justify t).out
            b64d_res := s.sinks.b64d_res ++
              [{ (b64dec s.params.justify t).result with count := n }] } }

/-- 42_hex_encoder.md R155 (d): a presented message appends exactly `HEXENC(m)`; nothing else changes. -/
def Obligations.HexeRefinesHexenc : Prop :=
  ∀ (s : State) (m : List Sym) (is : List Instr), presents .hexe m is →
    runCommands is s = .next
      { s with sinks := { s.sinks with hexe_out := s.sinks.hexe_out ++ hexenc m } }

/-- 43_hex_decoder.md R170: from the reset state of HEXD a presented message appends exactly
`HEXDEC(t)`'s bytes, one record with its `fail` and `cause` and, inside the counter envelope (R207), its
`count`, and leaves HEXD in the reset state. R207 does not specify `count` outside the envelope: that the
record then carries some number of `CNT_W` bits is the model's choice (log entry 7). -/
def Obligations.HexdRefinesHexdec : Prop :=
  ∀ (s : State) (t : List Sym) (is : List Instr),
    s.hexd = .reset → presents .hexd t is →
    ∃ n f, n < 2 ^ s.params.cntW ∧
      ((hexdec t).out.length < 2 ^ s.params.cntW → n = (hexdec t).result.count ∧ f = s.freeH) ∧
      runCommands is s = .next
        { s with
          freeH := f
          sinks := { s.sinks with
            hexd_out := s.sinks.hexd_out ++ (hexdec t).out
            hexd_res := s.sinks.hexd_res ++ [{ (hexdec t).result with count := n }] } }

/-- 70_reset_and_hazards.md R205, R209 and 60_exceptions.md R190: messages on one unit follow each other
at once, each decoded as a fresh one; a failed message leaves no trace in the next. Every message is
inside the counter envelope (R207). -/
def Obligations.B64dMessagesFollowEachOther : Prop :=
  ∀ (s : State) (ms : List (List Sym)), s.b64d = .reset →
    (∀ m ∈ ms, (b64dec s.params.justify m).out.length < 2 ^ s.params.cntW) →
    runCommands (ms.map (message .b64d)).flatten s = .next
      { s with sinks := { s.sinks with
        b64d_out := s.sinks.b64d_out ++ (ms.map (fun m => (b64dec s.params.justify m).out)).flatten
        b64d_res := s.sinks.b64d_res ++ ms.map (fun m => (b64dec s.params.justify m).result) } }

/-- 41_b64_decoder.md R136 (b) on the machine: two messages that differ only in whitespace leave the
same state. -/
def Obligations.WhitespaceDoesNotChangeTheDecode : Prop :=
  ∀ (s : State) (a b : List Sym) (w : Sym), class64 w = .ws →
    runCommands (message .b64d (a ++ w :: b)) s = runCommands (message .b64d (a ++ b)) s

/-! ### Whole-machine rules -/

/-- 10_state.md R24, R26 and 00_scope.md R5 hold right after reset. -/
def Obligations.InvHoldsAtReset : Prop := State.reset.Inv ∧ State.reset.StreamsInv

/-- 10_state.md R24, R26: "true after reset and after every command": every step, RESET included, from
a state that meets the invariant gives a state that meets it. -/
def Obligations.StepKeepsInv : Prop :=
  ∀ s t : State, s.Inv → step s = .next t → t.Inv

/-- 40_b64_encoder.md R108 (b), 42_hex_encoder.md R155 (a), 10_state.md R30, 60_exceptions.md R181: the
encoders' streams hold characters of their alphabet only, and every record has `cause` 0 exactly when
`fail` is 0, a cause of its own decoder, and a `count` of `CNT_W` bits; every step keeps it so. -/
def Obligations.StepKeepsStreamsInv : Prop :=
  ∀ s t : State, s.Inv → s.StreamsInv → step s = .next t → t.StreamsInv

/-- 00_scope.md R2, 10_state.md R20, R33, 20_memory.md R68: a command completes, and changes nothing but
the registers and streams of its own unit; the parameters and the host's inputs stay as they are. -/
def Obligations.CommandsTouchOnlyTheirUnit : Prop :=
  ∀ (i : Instr) (s : State), ∃ t, exec i s = .next t ∧
    t.params = s.params ∧ t.input = s.input ∧
    (i.unit ≠ .b64e → t.b64e = s.b64e ∧ t.sinks.b64e_out = s.sinks.b64e_out) ∧
    (i.unit ≠ .b64d → t.b64d = s.b64d ∧ t.sinks.b64d_out = s.sinks.b64d_out ∧
      t.sinks.b64d_res = s.sinks.b64d_res ∧ t.freeD = s.freeD) ∧
    (i.unit ≠ .hexe → t.sinks.hexe_out = s.sinks.hexe_out) ∧
    (i.unit ≠ .hexd → t.hexd = s.hexd ∧ t.sinks.hexd_out = s.sinks.hexd_out ∧
      t.sinks.hexd_res = s.sinks.hexd_res ∧ t.freeH = s.freeH)

/-- 20_memory.md R65: "commands addressed to different units commute": `p` then `q` leaves the same
registers and the same contents of every stream as `q` then `p`. -/
def Obligations.CommandsOfDifferentUnitsCommute : Prop :=
  ∀ (p q : Instr) (s : State), p.unit ≠ q.unit → runCommands [p, q] s = runCommands [q, p] s

/-- 30_encoding.md R93: "a program's end state depends only on the four per-unit subsequences of its
words". -/
def Obligations.ProgramsDependOnlyOnPerUnitSubsequences : Prop :=
  ∀ (ps qs : List Instr) (s : State), (∀ u, commandsOf u ps = commandsOf u qs) →
    runCommands ps s = runCommands qs s

/-- 20_memory.md R59, R62, 70_reset_and_hazards.md R201: streams are append-only sinks. Whatever a step
does, RESET included, each stream it leaves continues the one it found. -/
def Obligations.StreamsOnlyGrow : Prop :=
  ∀ s t : State, step s = .next t →
    s.sinks.b64e_out <+: t.sinks.b64e_out ∧ s.sinks.b64d_out <+: t.sinks.b64d_out ∧
    s.sinks.hexe_out <+: t.sinks.hexe_out ∧ s.sinks.hexd_out <+: t.sinks.hexd_out ∧
    s.sinks.b64d_res <+: t.sinks.b64d_res ∧ s.sinks.hexd_res <+: t.sinks.hexd_res

/-- 20_memory.md R61: the most a single command emits, on each stream. -/
def Obligations.CommandsEmitAtMost : Prop :=
  ∀ (s t : State) (i : Instr), exec i s = .next t →
    t.sinks.b64e_out.length ≤ s.sinks.b64e_out.length +
      (match i with | .b64eData _ => 4 | .b64eEnd => 4 | _ => 0) ∧
    t.sinks.b64d_out.length ≤ s.sinks.b64d_out.length +
      (match i with | .b64dData _ => 3 | .b64dEnd => 2 | _ => 0) ∧
    t.sinks.hexe_out.length = s.sinks.hexe_out.length +
      (match i with | .hexeData _ => 2 | _ => 0) ∧
    t.sinks.hexd_out.length ≤ s.sinks.hexd_out.length +
      (match i with | .hexdData _ => 1 | _ => 0) ∧
    t.sinks.b64d_res.length = s.sinks.b64d_res.length + (if i = .b64dEnd then 1 else 0) ∧
    t.sinks.hexd_res.length = s.sinks.hexd_res.length + (if i = .hexdEnd then 1 else 0)

/-- 10_state.md R29, R35 and 60_exceptions.md R191: a decoder that has failed stays as it is, and emits
nothing, through any commands but its own END. -/
def Obligations.FailureIsFrozenUntilEnd : Prop :=
  ∀ (is : List Instr) (s t : State), runCommands is s = .next t →
    (s.b64d.d_fail = true → .b64dEnd ∉ is →
      t.b64d = s.b64d ∧ t.sinks.b64d_out = s.sinks.b64d_out ∧ t.sinks.b64d_res = s.sinks.b64d_res) ∧
    (s.hexd.h_fail = true → .hexdEnd ∉ is →
      t.hexd = s.hexd ∧ t.sinks.hexd_out = s.sinks.hexd_out ∧ t.sinks.hexd_res = s.sinks.hexd_res)

/-- 60_exceptions.md R182, R183, R184, R188: which command enters which error, and when. From a RUNNING
decoder that meets the invariant, `B64D.DATA arg` enters MALFORMED_CHAR exactly on an invalid symbol
and INSUFFICIENT_GROUP exactly on a fourth symbol that leaves the group with fewer than two valid
ones; `HEXD.DATA arg` enters MALFORMED_CHAR exactly on the second symbol of a pair of which one is no
digit; no other command of the unit but END writes a flag. -/
def Obligations.ErrorsAreEnteredExactlyWhen : Prop :=
  ∀ (s : State) (a : Sym), s.Inv →
    (s.b64d.d_fail = false → ∃ t, exec (.b64dData a) s = .next t ∧
      (t.b64d.d_cause = .malformedChar ↔ class64 a = .invalid) ∧
      (t.b64d.d_cause = .insufficientGroup ↔
        s.b64d.d_pos = 3#2 ∧
          ((class64 a = .pad ∧ s.b64d.d_nvalid.toNat < 2) ∨
           (∃ x, class64 a = .alpha x) ∧ s.b64d.d_nvalid.toNat + 1 < 2)) ∧
      (t.b64d.d_fail = true ↔ t.b64d.d_cause ≠ .none)) ∧
    (s.hexd.h_fail = false → ∃ t, exec (.hexdData a) s = .next t ∧
      (t.hexd.h_cause = .malformedChar ↔
        s.hexd.h_phase = true ∧ (s.hexd.h_hi_ok = false ∨ ascNib a = none)) ∧
      t.hexd.h_cause ≠ .oddTrailing ∧
      (t.hexd.h_fail = true ↔ t.hexd.h_cause = .malformedChar))

/-- 10_state.md R22, R26: no holding register is read that the current message has not written. Two
states that differ only in holding registers no command may read give, command by command, the same
streams, until the registers are written again. -/
def Obligations.StaleHoldingRegistersAreNeverRead : Prop :=
  ∀ (is : List Instr) (s : State) (x y : Sym) (ok : Bool) (n : Nibble),
    s.b64e.e_phase = 0 → s.hexd.h_phase = false →
    ∃ t t', runCommands is s = .next t ∧
      runCommands is { s with
        b64e := { s.b64e with e_b0 := x, e_b1 := y }
        hexd := { s.hexd with h_hi_ok := ok, h_hi := n } } = .next t' ∧
      t'.sinks = t.sinks ∧ t'.b64d = t.b64d ∧ t'.b64e.e_phase = t.b64e.e_phase ∧
      t'.hexd.h_phase = t.hexd.h_phase ∧ t'.hexd.h_count = t.hexd.h_count ∧
      t'.hexd.h_fail = t.hexd.h_fail ∧ t'.hexd.h_cause = t.hexd.h_cause

/-- 10_state.md R24, R26: `d_count` and `h_count` grow by the number of symbols their decoder emits, up
to the message boundary. -/
def Obligations.CountersCountTheEmittedSymbols : Prop :=
  ∀ (is : List Instr) (s : State),
    ∃ t, runCommands is s = .next t ∧
      (.b64dEnd ∉ is → t.b64d.d_count + s.sinks.b64d_out.length =
        s.b64d.d_count + t.sinks.b64d_out.length) ∧
      (.hexdEnd ∉ is → t.hexd.h_count + s.sinks.hexd_out.length =
        s.hexd.h_count + t.sinks.hexd_out.length)

/-- 70_reset_and_hazards.md R202, R204: a message that is not closed by END delivers no result record;
RESET abandons it, so that every unit is at the start of a message, and what was emitted stays. -/
def Obligations.ResetAbandonsOpenMessages : Prop :=
  ∀ (is : List Instr) (s : State) (rest : List HostInput), .b64dEnd ∉ is → .hexdEnd ∉ is →
    ∃ t, runCommands is s = .next t ∧
      t.sinks.b64d_res = s.sinks.b64d_res ∧ t.sinks.hexd_res = s.sinks.hexd_res ∧
      step { t with input := .reset :: rest } =
        .next { t with input := rest, b64e := .reset, b64d := .reset, hexd := .reset }

/-! ### Operands and comments of the assembler -/

/-- 30_encoding.md R89: the operand of DATA is read in each of its forms, and "a `;` starts a comment to
the end of the line" after any command, whatever the comment holds. That the quote, the backslash and
the semicolon may stand in single quotes, that hex digits may be of either case, and that no blank need
stand before the comment, are the model's choices (log entry 12). -/
def Obligations.OperandsAndCommentsAreRead : Prop :=
  ∀ (u : UnitId) (t c : List Sym) (v : Sym),
    (spellsOperand t v →
      assembleLine (Machine.UnitId.name u ++ text ".DATA " ++ t) = some [dataCommand u v] ∧
      assembleLine (Machine.UnitId.name u ++ text ".DATA " ++ t ++ text ";" ++ c) =
        some [dataCommand u v]) ∧
    assembleLine (Machine.UnitId.name u ++ text ".NOP;" ++ c) = some [nopCommand u] ∧
    assembleLine (Machine.UnitId.name u ++ text ".END;" ++ c) = some [endCommand u] ∧
    assembleLine (text ";" ++ c) = some []
end

