-- ==== Sys2Proof/Laws/Assembler.lean ====
section
/-! SUPPORT. What the assembler reads of an operand (30_encoding.md R89). -/

namespace Sys2Proof.Machine

/-- What may stand after an operand: nothing, a blank, or a comment. -/
def EndsOperand (rest : List Sym) : Prop := ∀ c ∈ rest.head?, isBlank c = true ∨ c = 0x3B#8

/-- The code of a decimal digit is a digit, and its value is read back. -/
theorem digit_code (k : Nat) (h : k < 10) :
    isDigit (BitVec.ofNat 8 (0x30 + k)) = true ∧ (BitVec.ofNat 8 (0x30 + k)).toNat = 0x30 + k := by
  have e : (BitVec.ofNat 8 (0x30 + k)).toNat = 0x30 + k := by
    rw [BitVec.toNat_ofNat, Nat.mod_eq_of_lt (by omega)]
  refine ⟨?_, e⟩
  simp only [isDigit, e, Bool.and_eq_true, decide_eq_true_eq]
  omega

theorem decimalText_isDigit (v : Sym) : ∀ c ∈ decimalText v, isDigit c = true := by
  have hv := v.isLt
  intro c hc
  simp only [decimalText] at hc
  split at hc
  · simp only [List.mem_singleton] at hc
    exact hc ▸ (digit_code _ (by omega)).1
  · split at hc <;> simp only [List.mem_cons, List.not_mem_nil, or_false] at hc
    · rcases hc with rfl | rfl <;> exact (digit_code _ (by omega)).1
    · rcases hc with rfl | rfl | rfl <;> exact (digit_code _ (by omega)).1

theorem decimal_decimalText (v : Sym) : decimal (decimalText v) = v.toNat := by
  have hv := v.isLt
  simp only [decimalText]
  split
  · simp only [decimal, List.foldl, (digit_code v.toNat (by omega)).2]
    omega
  · split
    · simp only [decimal, List.foldl, (digit_code (v.toNat / 10) (by omega)).2,
        (digit_code (v.toNat % 10) (by omega)).2]
      omega
    · simp only [decimal, List.foldl, (digit_code (v.toNat / 100) (by omega)).2,
        (digit_code (v.toNat / 10 % 10) (by omega)).2, (digit_code (v.toNat % 10) (by omega)).2]
      omega

theorem decimalText_ne_nil (v : Sym) : decimalText v ≠ [] := by
  unfold decimalText
  simp only
  split
  · simp
  · split <;> simp

theorem endsOperand_cons (c : Sym) (r : List Sym) (h : EndsOperand (c :: r)) :
    isDigit c = false ∧ c ≠ 0x27#8 ∧ c ≠ 0x78#8 := by
  have hc : ∀ c : Sym, isBlank c = true ∨ c = 0x3B#8 → isDigit c = false ∧ c ≠ 0x27#8 ∧ c ≠ 0x78#8 := by
    decide +kernel
  exact hc c (h c (by simp))

/-- The digits in front of the rest are what the scan takes. -/
theorem takeWhile_digits (ds rest : List Sym) (hd : ∀ c ∈ ds, isDigit c = true) (h : EndsOperand rest) :
    (ds ++ rest).takeWhile isDigit = ds ∧ (ds ++ rest).dropWhile isDigit = rest := by
  have hr : rest.takeWhile isDigit = [] ∧ rest.dropWhile isDigit = rest := by
    cases rest with
    | nil => exact ⟨rfl, rfl⟩
    | cons c r =>
      have := (endsOperand_cons c r h).1
      simp [this]
  rw [List.takeWhile_append_of_pos hd, List.dropWhile_append_of_pos hd, hr.1, hr.2, List.append_nil]
  exact ⟨rfl, rfl⟩

/-- A text of digits, and what may follow it, is neither a quoted character nor a hex number. -/
theorem digits_head (ds rest : List Sym) (hn : ds ≠ []) (hd : ∀ c ∈ ds, isDigit c = true)
    (h : EndsOperand rest) :
    (ds ++ rest).head? ≠ some 0x27#8 ∧ (ds ++ rest).take 2 ≠ text "0x" := by
  have ht : text "0x" = [0x30#8, 0x78#8] := by decide
  have hx : ∀ c : Sym, isDigit c = true → c ≠ 0x27#8 ∧ c ≠ 0x78#8 := by decide +kernel
  rw [ht]
  match ds, hn with
  | [a], _ =>
    have ha := hx a (hd a (by simp))
    cases rest with
    | nil => simp [ha.1]
    | cons c r => simp [ha.1, (endsOperand_cons c r h).2.2]
  | a :: b :: ds, _ =>
    have ha := hx a (hd a (by simp))
    have hb := hx b (hd b (by simp))
    simp [ha.1, hb.2]

/-- An operand in any form of R89 is read whole, with its value, up to what follows it. -/
theorem parseOperand_spells (t rest : List Sym) (v : Sym) (ht : spellsOperand t v) (h : EndsOperand rest) :
    parseOperand (t ++ rest) = some (v, rest) := by
  have hq : ∀ c r, rest = c :: r → c ≠ 0x27#8 := fun c r e => (endsOperand_cons c r (e ▸ h)).2.1
  rcases ht with ⟨a, b, hi, lo, rfl, ha, hb, rfl⟩ | rfl | ⟨hp, rfl⟩ | ⟨rfl, rfl⟩ | ⟨rfl, rfl⟩ | ⟨rfl, rfl⟩
  · have e : text "0x" = [0x30#8, 0x78#8] := by decide
    simp [e, parseOperand, parseHex, ha, hb, join8]
  · obtain ⟨h1, h2⟩ := digits_head _ rest (decimalText_ne_nil v) (decimalText_isDigit v) h
    obtain ⟨h3, h4⟩ := takeWhile_digits _ rest (decimalText_isDigit v) h
    have hv := v.isLt
    rw [parseOperand, if_neg h1, if_neg h2, parseDecimal, h3, h4, decimal_decimalText]
    rw [if_pos ⟨decimalText_ne_nil v, by omega⟩, BitVec.ofNat_toNat, BitVec.setWidth_eq]
  · cases rest with
    | nil => simp [parseOperand, parseChar, hp]
    | cons c r =>
      have := hq c r rfl
      simp [parseOperand, parseChar, hp, this]
  all_goals rfl

end Sys2Proof.Machine
end

