-- ==== Sys2Proof/Laws/Bits.lean ====
section
/-! SUPPORT. Fields of a concatenation (00_scope.md R6). They are stated at general widths; at the
widths of the model they are used with `exact` or as terms, since 12 and 2 + 10 are the same width
only up to evaluation. -/

namespace Sys2Proof

/-- The upper field of `a ‖ b`. -/
theorem append_hi {m n : Nat} (a : BitVec m) (b : BitVec n) : (a ++ b).extractLsb' n m = a := by
  ext i hi
  simp [BitVec.getElem_extractLsb', BitVec.getLsbD_append, hi]

/-- The lower field of `a ‖ b`. -/
theorem append_lo {m n : Nat} (a : BitVec m) (b : BitVec n) : (a ++ b).extractLsb' 0 n = b := by
  ext i hi
  simp [BitVec.getElem_extractLsb', BitVec.getLsbD_append, hi]

/-- A value is the concatenation of its two fields. -/
theorem split_append {m n : Nat} (w : BitVec (m + n)) :
    w.extractLsb' n m ++ w.extractLsb' 0 n = w := by
  ext i hi
  simp only [BitVec.getElem_append, BitVec.getElem_extractLsb']
  split
  · simp [BitVec.getLsbD_eq_getElem hi]
  · rw [show n + (i - n) = i by omega]
    simp [BitVec.getLsbD_eq_getElem hi]

/-- A mask acts field by field. -/
theorem append_and {m n : Nat} (a c : BitVec m) (b d : BitVec n) :
    (a ++ b) &&& (c ++ d) = (a &&& c) ++ (b &&& d) := by
  ext i hi
  simp only [BitVec.getElem_append, BitVec.getElem_and]
  split <;> simp

/-- A concatenation is determined field by field. -/
theorem append_inj {m n : Nat} (a c : BitVec m) (b d : BitVec n) :
    a ++ b = c ++ d ↔ a = c ∧ b = d := by
  refine ⟨fun h => ⟨?_, ?_⟩, fun ⟨h1, h2⟩ => by rw [h1, h2]⟩
  · have := congrArg (BitVec.extractLsb' n m) h
    rwa [append_hi, append_hi] at this
  · have := congrArg (BitVec.extractLsb' 0 n) h
    rwa [append_lo, append_lo] at this

/-- The number a concatenation is. -/
theorem toNat_append {m n : Nat} (a : BitVec m) (b : BitVec n) :
    (a ++ b).toNat = a.toNat * 2 ^ n + b.toNat := by
  rw [BitVec.toNat_append, Nat.shiftLeft_eq, Nat.mul_comm,
    ← Nat.two_pow_add_eq_or_of_lt b.isLt]

end Sys2Proof
end

