-- ==== Sys2Proof/Laws/Decode.lean ====
section
/-! SUPPORT. The decoder on a word written by its fields, and the parts of an encoded command. -/

namespace Sys2Proof

@[simp] theorem unitOfCode_code (u : UnitId) : unitOfCode u.code = u := by cases u <;> rfl

@[simp] theorem kindOfCode_code (k : Kind) : kindOfCode k.code = some k := by cases k <;> rfl

/-- The reserved code is the one that selects no kind (30_encoding.md R86). -/
theorem kindOfCode_eq_none (c : BitVec 2) : kindOfCode c = none ↔ c = 0b11#2 := by
  revert c; decide

theorem code_unitOfCode (c : BitVec 2) : (unitOfCode c).code = c := by revert c; decide

/-- A code that is not reserved is the code of the kind it selects. -/
theorem code_of_kindOfCode (c : BitVec 2) (k : Kind) (h : kindOfCode c = some k) : k.code = c := by
  revert h; cases k <;> (revert c; decide)

@[simp] theorem unit_ofFields (u : UnitId) (k : Kind) (d : Sym) : (Instr.ofFields u k d).unit = u := by
  cases u <;> cases k <;> rfl

@[simp] theorem kind_ofFields (u : UnitId) (k : Kind) (d : Sym) : (Instr.ofFields u k d).kind = k := by
  cases u <;> cases k <;> rfl

/-- A command is the one of its fields (30_encoding.md R81, R83). -/
theorem ofFields_self (i : Instr) : Instr.ofFields i.unit i.kind i.dataField = i := by
  cases i <;> rfl

theorem dataField_ofFields (u : UnitId) (k : Kind) (d : Sym) :
    (Instr.ofFields u k d).dataField = if k = .data then d else 0x00#8 := by
  cases u <;> cases k <;> rfl

/-- Decode at a port, by fields (30_encoding.md R81). -/
theorem decodePort_fields (u : UnitId) (k : BitVec 2) (d : Sym) :
    decodePort u (k ++ d) =
      match kindOfCode k with
      | some k => .ok (Instr.ofFields u k d)
      | none => .error .reservedKind := by
  rw [decodePort, show (k ++ d : PortCmd).extractLsb' 8 2 = k from append_hi k d,
    show (k ++ d : PortCmd).extractLsb' 0 8 = d from append_lo k d]
  all_goals cases kindOfCode k <;> rfl

/-- A 12-bit word is decoded at the port its `unit` field names (30_encoding.md R81). -/
theorem decodeCmd_fields (u : BitVec 2) (c : PortCmd) :
    decodeCmd (u ++ c) = decodePort (unitOfCode u) c := by
  rw [decodeCmd, show (u ++ c : Cmd).extractLsb' 10 2 = u from append_hi u c,
    show (u ++ c : Cmd).extractLsb' 0 10 = c from append_lo u c]

/-- The words of a command, whatever their `data` field (30_encoding.md R83, R85). -/
theorem decodeCmd_code (u : UnitId) (k : Kind) (d : Sym) :
    decodeCmd (u.code ++ (k.code ++ d)) = .ok (Instr.ofFields u k d) := by
  rw [decodeCmd_fields, decodePort_fields, unitOfCode_code, kindOfCode_code]

/-- The same with the selecting four bits written as one field (30_encoding.md R85). -/
theorem decodeCmd_pattern (p : BitVec 4) (u : UnitId) (k : Kind) (d : Sym)
    (h : p = u.code ++ k.code) : decodeCmd (p ++ d) = .ok (Instr.ofFields u k d) := by
  subst h
  rw [← decodeCmd_code u k d]
  exact congrArg decodeCmd BitVec.append_assoc

/-- Every 12-bit word is a `unit`, a `kind` and a `data` field (30_encoding.md R81). -/
theorem cmd_eq_fields (w : Cmd) : ∃ (u : UnitId) (k : BitVec 2) (d : Sym), w = u.code ++ (k ++ d) := by
  refine ⟨unitOfCode (w.extractLsb' 10 2), (w.extractLsb' 0 10).extractLsb' 8 2,
    (w.extractLsb' 0 10).extractLsb' 0 8, ?_⟩
  rw [code_unitOfCode]
  have h := split_append (m := 2) (n := 8) (w.extractLsb' 0 10)
  exact ((congrArg (fun c : PortCmd => (w.extractLsb' 10 2 ++ c : Cmd)) h).trans
    (split_append (m := 2) (n := 10) w)).symm

end Sys2Proof
end

