-- ==== Sys2Proof/Laws/State.lean ====
section
/-! SUPPORT. What each update of State leaves in each field: one lemma per field per update. -/

namespace Sys2Proof.Machine.State

variable (s : State)

/-! ### setB64e: the registers of B64E replaced -/

@[simp] theorem setB64e_params (r : B64E) : (s.setB64e r).params = s.params := rfl
@[simp] theorem setB64e_input (r : B64E) : (s.setB64e r).input = s.input := rfl
@[simp] theorem setB64e_b64e (r : B64E) : (s.setB64e r).b64e = r := rfl
@[simp] theorem setB64e_b64d (r : B64E) : (s.setB64e r).b64d = s.b64d := rfl
@[simp] theorem setB64e_hexd (r : B64E) : (s.setB64e r).hexd = s.hexd := rfl
@[simp] theorem setB64e_freeD (r : B64E) : (s.setB64e r).freeD = s.freeD := rfl
@[simp] theorem setB64e_freeH (r : B64E) : (s.setB64e r).freeH = s.freeH := rfl
@[simp] theorem setB64e_b64e_out (r : B64E) : (s.setB64e r).sinks.b64e_out = s.sinks.b64e_out := rfl
@[simp] theorem setB64e_b64d_out (r : B64E) : (s.setB64e r).sinks.b64d_out = s.sinks.b64d_out := rfl
@[simp] theorem setB64e_hexe_out (r : B64E) : (s.setB64e r).sinks.hexe_out = s.sinks.hexe_out := rfl
@[simp] theorem setB64e_hexd_out (r : B64E) : (s.setB64e r).sinks.hexd_out = s.sinks.hexd_out := rfl
@[simp] theorem setB64e_b64d_res (r : B64E) : (s.setB64e r).sinks.b64d_res = s.sinks.b64d_res := rfl
@[simp] theorem setB64e_hexd_res (r : B64E) : (s.setB64e r).sinks.hexd_res = s.sinks.hexd_res := rfl

/-! ### setB64d: the registers of B64D replaced -/

@[simp] theorem setB64d_params (r : B64D) : (s.setB64d r).params = s.params := rfl
@[simp] theorem setB64d_input (r : B64D) : (s.setB64d r).input = s.input := rfl
@[simp] theorem setB64d_b64e (r : B64D) : (s.setB64d r).b64e = s.b64e := rfl
@[simp] theorem setB64d_b64d (r : B64D) : (s.setB64d r).b64d = r := rfl
@[simp] theorem setB64d_hexd (r : B64D) : (s.setB64d r).hexd = s.hexd := rfl
@[simp] theorem setB64d_freeD (r : B64D) : (s.setB64d r).freeD = s.freeD := rfl
@[simp] theorem setB64d_freeH (r : B64D) : (s.setB64d r).freeH = s.freeH := rfl
@[simp] theorem setB64d_b64e_out (r : B64D) : (s.setB64d r).sinks.b64e_out = s.sinks.b64e_out := rfl
@[simp] theorem setB64d_b64d_out (r : B64D) : (s.setB64d r).sinks.b64d_out = s.sinks.b64d_out := rfl
@[simp] theorem setB64d_hexe_out (r : B64D) : (s.setB64d r).sinks.hexe_out = s.sinks.hexe_out := rfl
@[simp] theorem setB64d_hexd_out (r : B64D) : (s.setB64d r).sinks.hexd_out = s.sinks.hexd_out := rfl
@[simp] theorem setB64d_b64d_res (r : B64D) : (s.setB64d r).sinks.b64d_res = s.sinks.b64d_res := rfl
@[simp] theorem setB64d_hexd_res (r : B64D) : (s.setB64d r).sinks.hexd_res = s.sinks.hexd_res := rfl

/-! ### setHexd: the registers of HEXD replaced -/

@[simp] theorem setHexd_params (r : HEXD) : (s.setHexd r).params = s.params := rfl
@[simp] theorem setHexd_input (r : HEXD) : (s.setHexd r).input = s.input := rfl
@[simp] theorem setHexd_b64e (r : HEXD) : (s.setHexd r).b64e = s.b64e := rfl
@[simp] theorem setHexd_b64d (r : HEXD) : (s.setHexd r).b64d = s.b64d := rfl
@[simp] theorem setHexd_hexd (r : HEXD) : (s.setHexd r).hexd = r := rfl
@[simp] theorem setHexd_freeD (r : HEXD) : (s.setHexd r).freeD = s.freeD := rfl
@[simp] theorem setHexd_freeH (r : HEXD) : (s.setHexd r).freeH = s.freeH := rfl
@[simp] theorem setHexd_b64e_out (r : HEXD) : (s.setHexd r).sinks.b64e_out = s.sinks.b64e_out := rfl
@[simp] theorem setHexd_b64d_out (r : HEXD) : (s.setHexd r).sinks.b64d_out = s.sinks.b64d_out := rfl
@[simp] theorem setHexd_hexe_out (r : HEXD) : (s.setHexd r).sinks.hexe_out = s.sinks.hexe_out := rfl
@[simp] theorem setHexd_hexd_out (r : HEXD) : (s.setHexd r).sinks.hexd_out = s.sinks.hexd_out := rfl
@[simp] theorem setHexd_b64d_res (r : HEXD) : (s.setHexd r).sinks.b64d_res = s.sinks.b64d_res := rfl
@[simp] theorem setHexd_hexd_res (r : HEXD) : (s.setHexd r).sinks.hexd_res = s.sinks.hexd_res := rfl

/-! ### emitB64e: B64E emits -/

@[simp] theorem emitB64e_params (vs : List Sym) : (s.emitB64e vs).params = s.params := rfl
@[simp] theorem emitB64e_input (vs : List Sym) : (s.emitB64e vs).input = s.input := rfl
@[simp] theorem emitB64e_b64e (vs : List Sym) : (s.emitB64e vs).b64e = s.b64e := rfl
@[simp] theorem emitB64e_b64d (vs : List Sym) : (s.emitB64e vs).b64d = s.b64d := rfl
@[simp] theorem emitB64e_hexd (vs : List Sym) : (s.emitB64e vs).hexd = s.hexd := rfl
@[simp] theorem emitB64e_freeD (vs : List Sym) : (s.emitB64e vs).freeD = s.freeD := rfl
@[simp] theorem emitB64e_freeH (vs : List Sym) : (s.emitB64e vs).freeH = s.freeH := rfl
@[simp] theorem emitB64e_b64e_out (vs : List Sym) :
    (s.emitB64e vs).sinks.b64e_out = s.sinks.b64e_out ++ vs := rfl
@[simp] theorem emitB64e_b64d_out (vs : List Sym) :
    (s.emitB64e vs).sinks.b64d_out = s.sinks.b64d_out := rfl
@[simp] theorem emitB64e_hexe_out (vs : List Sym) :
    (s.emitB64e vs).sinks.hexe_out = s.sinks.hexe_out := rfl
@[simp] theorem emitB64e_hexd_out (vs : List Sym) :
    (s.emitB64e vs).sinks.hexd_out = s.sinks.hexd_out := rfl
@[simp] theorem emitB64e_b64d_res (vs : List Sym) :
    (s.emitB64e vs).sinks.b64d_res = s.sinks.b64d_res := rfl
@[simp] theorem emitB64e_hexd_res (vs : List Sym) :
    (s.emitB64e vs).sinks.hexd_res = s.sinks.hexd_res := rfl

/-! ### emitB64d: B64D emits -/

@[simp] theorem emitB64d_params (vs : List Sym) : (s.emitB64d vs).params = s.params := rfl
@[simp] theorem emitB64d_input (vs : List Sym) : (s.emitB64d vs).input = s.input := rfl
@[simp] theorem emitB64d_b64e (vs : List Sym) : (s.emitB64d vs).b64e = s.b64e := rfl
@[simp] theorem emitB64d_b64d (vs : List Sym) : (s.emitB64d vs).b64d = s.b64d := rfl
@[simp] theorem emitB64d_hexd (vs : List Sym) : (s.emitB64d vs).hexd = s.hexd := rfl
@[simp] theorem emitB64d_freeD (vs : List Sym) : (s.emitB64d vs).freeD = s.freeD := rfl
@[simp] theorem emitB64d_freeH (vs : List Sym) : (s.emitB64d vs).freeH = s.freeH := rfl
@[simp] theorem emitB64d_b64e_out (vs : List Sym) :
    (s.emitB64d vs).sinks.b64e_out = s.sinks.b64e_out := rfl
@[simp] theorem emitB64d_b64d_out (vs : List Sym) :
    (s.emitB64d vs).sinks.b64d_out = s.sinks.b64d_out ++ vs := rfl
@[simp] theorem emitB64d_hexe_out (vs : List Sym) :
    (s.emitB64d vs).sinks.hexe_out = s.sinks.hexe_out := rfl
@[simp] theorem emitB64d_hexd_out (vs : List Sym) :
    (s.emitB64d vs).sinks.hexd_out = s.sinks.hexd_out := rfl
@[simp] theorem emitB64d_b64d_res (vs : List Sym) :
    (s.emitB64d vs).sinks.b64d_res = s.sinks.b64d_res := rfl
@[simp] theorem emitB64d_hexd_res (vs : List Sym) :
    (s.emitB64d vs).sinks.hexd_res = s.sinks.hexd_res := rfl

/-! ### emitHexe: HEXE emits -/

@[simp] theorem emitHexe_params (vs : List Sym) : (s.emitHexe vs).params = s.params := rfl
@[simp] theorem emitHexe_input (vs : List Sym) : (s.emitHexe vs).input = s.input := rfl
@[simp] theorem emitHexe_b64e (vs : List Sym) : (s.emitHexe vs).b64e = s.b64e := rfl
@[simp] theorem emitHexe_b64d (vs : List Sym) : (s.emitHexe vs).b64d = s.b64d := rfl
@[simp] theorem emitHexe_hexd (vs : List Sym) : (s.emitHexe vs).hexd = s.hexd := rfl
@[simp] theorem emitHexe_freeD (vs : List Sym) : (s.emitHexe vs).freeD = s.freeD := rfl
@[simp] theorem emitHexe_freeH (vs : List Sym) : (s.emitHexe vs).freeH = s.freeH := rfl
@[simp] theorem emitHexe_b64e_out (vs : List Sym) :
    (s.emitHexe vs).sinks.b64e_out = s.sinks.b64e_out := rfl
@[simp] theorem emitHexe_b64d_out (vs : List Sym) :
    (s.emitHexe vs).sinks.b64d_out = s.sinks.b64d_out := rfl
@[simp] theorem emitHexe_hexe_out (vs : List Sym) :
    (s.emitHexe vs).sinks.hexe_out = s.sinks.hexe_out ++ vs := rfl
@[simp] theorem emitHexe_hexd_out (vs : List Sym) :
    (s.emitHexe vs).sinks.hexd_out = s.sinks.hexd_out := rfl
@[simp] theorem emitHexe_b64d_res (vs : List Sym) :
    (s.emitHexe vs).sinks.b64d_res = s.sinks.b64d_res := rfl
@[simp] theorem emitHexe_hexd_res (vs : List Sym) :
    (s.emitHexe vs).sinks.hexd_res = s.sinks.hexd_res := rfl

/-! ### emitHexd: HEXD emits -/

@[simp] theorem emitHexd_params (vs : List Sym) : (s.emitHexd vs).params = s.params := rfl
@[simp] theorem emitHexd_input (vs : List Sym) : (s.emitHexd vs).input = s.input := rfl
@[simp] theorem emitHexd_b64e (vs : List Sym) : (s.emitHexd vs).b64e = s.b64e := rfl
@[simp] theorem emitHexd_b64d (vs : List Sym) : (s.emitHexd vs).b64d = s.b64d := rfl
@[simp] theorem emitHexd_hexd (vs : List Sym) : (s.emitHexd vs).hexd = s.hexd := rfl
@[simp] theorem emitHexd_freeD (vs : List Sym) : (s.emitHexd vs).freeD = s.freeD := rfl
@[simp] theorem emitHexd_freeH (vs : List Sym) : (s.emitHexd vs).freeH = s.freeH := rfl
@[simp] theorem emitHexd_b64e_out (vs : List Sym) :
    (s.emitHexd vs).sinks.b64e_out = s.sinks.b64e_out := rfl
@[simp] theorem emitHexd_b64d_out (vs : List Sym) :
    (s.emitHexd vs).sinks.b64d_out = s.sinks.b64d_out := rfl
@[simp] theorem emitHexd_hexe_out (vs : List Sym) :
    (s.emitHexd vs).sinks.hexe_out = s.sinks.hexe_out := rfl
@[simp] theorem emitHexd_hexd_out (vs : List Sym) :
    (s.emitHexd vs).sinks.hexd_out = s.sinks.hexd_out ++ vs := rfl
@[simp] theorem emitHexd_b64d_res (vs : List Sym) :
    (s.emitHexd vs).sinks.b64d_res = s.sinks.b64d_res := rfl
@[simp] theorem emitHexd_hexd_res (vs : List Sym) :
    (s.emitHexd vs).sinks.hexd_res = s.sinks.hexd_res := rfl

/-! ### emitResultB64d: B64D reports -/

@[simp] theorem emitResultB64d_params : (s.emitResultB64d).params = s.params := rfl
@[simp] theorem emitResultB64d_input : (s.emitResultB64d).input = s.input := rfl
@[simp] theorem emitResultB64d_b64e : (s.emitResultB64d).b64e = s.b64e := rfl
@[simp] theorem emitResultB64d_b64d : (s.emitResultB64d).b64d = s.b64d := rfl
@[simp] theorem emitResultB64d_hexd : (s.emitResultB64d).hexd = s.hexd := rfl
@[simp] theorem emitResultB64d_freeD :
    (s.emitResultB64d).freeD = nextFree s.params.cntW s.b64d.d_count s.freeD := rfl
@[simp] theorem emitResultB64d_freeH : (s.emitResultB64d).freeH = s.freeH := rfl
@[simp] theorem emitResultB64d_b64e_out :
    (s.emitResultB64d).sinks.b64e_out = s.sinks.b64e_out := rfl
@[simp] theorem emitResultB64d_b64d_out :
    (s.emitResultB64d).sinks.b64d_out = s.sinks.b64d_out := rfl
@[simp] theorem emitResultB64d_hexe_out :
    (s.emitResultB64d).sinks.hexe_out = s.sinks.hexe_out := rfl
@[simp] theorem emitResultB64d_hexd_out :
    (s.emitResultB64d).sinks.hexd_out = s.sinks.hexd_out := rfl
@[simp] theorem emitResultB64d_b64d_res :
    (s.emitResultB64d).sinks.b64d_res = s.sinks.b64d_res ++
      [{ fail := s.b64d.d_fail, cause := s.b64d.d_cause,
         count := reportedCount s.params.cntW s.b64d.d_count (Config.freeCountB64d s.freeD) }] := rfl
@[simp] theorem emitResultB64d_hexd_res :
    (s.emitResultB64d).sinks.hexd_res = s.sinks.hexd_res := rfl

/-! ### emitResultHexd: HEXD reports -/

@[simp] theorem emitResultHexd_params : (s.emitResultHexd).params = s.params := rfl
@[simp] theorem emitResultHexd_input : (s.emitResultHexd).input = s.input := rfl
@[simp] theorem emitResultHexd_b64e : (s.emitResultHexd).b64e = s.b64e := rfl
@[simp] theorem emitResultHexd_b64d : (s.emitResultHexd).b64d = s.b64d := rfl
@[simp] theorem emitResultHexd_hexd : (s.emitResultHexd).hexd = s.hexd := rfl
@[simp] theorem emitResultHexd_freeD : (s.emitResultHexd).freeD = s.freeD := rfl
@[simp] theorem emitResultHexd_freeH :
    (s.emitResultHexd).freeH = nextFree s.params.cntW s.hexd.h_count s.freeH := rfl
@[simp] theorem emitResultHexd_b64e_out :
    (s.emitResultHexd).sinks.b64e_out = s.sinks.b64e_out := rfl
@[simp] theorem emitResultHexd_b64d_out :
    (s.emitResultHexd).sinks.b64d_out = s.sinks.b64d_out := rfl
@[simp] theorem emitResultHexd_hexe_out :
    (s.emitResultHexd).sinks.hexe_out = s.sinks.hexe_out := rfl
@[simp] theorem emitResultHexd_hexd_out :
    (s.emitResultHexd).sinks.hexd_out = s.sinks.hexd_out := rfl
@[simp] theorem emitResultHexd_b64d_res :
    (s.emitResultHexd).sinks.b64d_res = s.sinks.b64d_res := rfl
@[simp] theorem emitResultHexd_hexd_res :
    (s.emitResultHexd).sinks.hexd_res = s.sinks.hexd_res ++
      [{ fail := s.hexd.h_fail, cause := s.hexd.h_cause,
         count := reportedCount s.params.cntW s.hexd.h_count (Config.freeCountHexd s.freeH) }] := rfl

/-! ### applyReset: RESET -/

@[simp] theorem applyReset_params : (s.applyReset).params = s.params := rfl
@[simp] theorem applyReset_input : (s.applyReset).input = s.input := rfl
@[simp] theorem applyReset_b64e : (s.applyReset).b64e = .reset := rfl
@[simp] theorem applyReset_b64d : (s.applyReset).b64d = .reset := rfl
@[simp] theorem applyReset_hexd : (s.applyReset).hexd = .reset := rfl
@[simp] theorem applyReset_freeD : (s.applyReset).freeD = s.freeD := rfl
@[simp] theorem applyReset_freeH : (s.applyReset).freeH = s.freeH := rfl
@[simp] theorem applyReset_b64e_out : (s.applyReset).sinks.b64e_out = s.sinks.b64e_out := rfl
@[simp] theorem applyReset_b64d_out : (s.applyReset).sinks.b64d_out = s.sinks.b64d_out := rfl
@[simp] theorem applyReset_hexe_out : (s.applyReset).sinks.hexe_out = s.sinks.hexe_out := rfl
@[simp] theorem applyReset_hexd_out : (s.applyReset).sinks.hexd_out = s.sinks.hexd_out := rfl
@[simp] theorem applyReset_b64d_res : (s.applyReset).sinks.b64d_res = s.sinks.b64d_res := rfl
@[simp] theorem applyReset_hexd_res : (s.applyReset).sinks.hexd_res = s.sinks.hexd_res := rfl

/-! ### setInput: the host inputs replaced -/

@[simp] theorem setInput_params (l : List HostInput) : (s.setInput l).params = s.params := rfl
@[simp] theorem setInput_input (l : List HostInput) : (s.setInput l).input = l := rfl
@[simp] theorem setInput_b64e (l : List HostInput) : (s.setInput l).b64e = s.b64e := rfl
@[simp] theorem setInput_b64d (l : List HostInput) : (s.setInput l).b64d = s.b64d := rfl
@[simp] theorem setInput_hexd (l : List HostInput) : (s.setInput l).hexd = s.hexd := rfl
@[simp] theorem setInput_freeD (l : List HostInput) : (s.setInput l).freeD = s.freeD := rfl
@[simp] theorem setInput_freeH (l : List HostInput) : (s.setInput l).freeH = s.freeH := rfl
@[simp] theorem setInput_b64e_out (l : List HostInput) :
    (s.setInput l).sinks.b64e_out = s.sinks.b64e_out := rfl
@[simp] theorem setInput_b64d_out (l : List HostInput) :
    (s.setInput l).sinks.b64d_out = s.sinks.b64d_out := rfl
@[simp] theorem setInput_hexe_out (l : List HostInput) :
    (s.setInput l).sinks.hexe_out = s.sinks.hexe_out := rfl
@[simp] theorem setInput_hexd_out (l : List HostInput) :
    (s.setInput l).sinks.hexd_out = s.sinks.hexd_out := rfl
@[simp] theorem setInput_b64d_res (l : List HostInput) :
    (s.setInput l).sinks.b64d_res = s.sinks.b64d_res := rfl
@[simp] theorem setInput_hexd_res (l : List HostInput) :
    (s.setInput l).sinks.hexd_res = s.sinks.hexd_res := rfl

/-! ### closeGroup: a group closes -/

@[simp] theorem closeGroup_params (acc : Group) (k v : Nat) (bad : Bool) :
    (s.closeGroup acc k v bad).params = s.params := rfl
@[simp] theorem closeGroup_input (acc : Group) (k v : Nat) (bad : Bool) :
    (s.closeGroup acc k v bad).input = s.input := rfl
@[simp] theorem closeGroup_b64e (acc : Group) (k v : Nat) (bad : Bool) :
    (s.closeGroup acc k v bad).b64e = s.b64e := rfl
@[simp] theorem closeGroup_b64d (acc : Group) (k v : Nat) (bad : Bool) :
    (s.closeGroup acc k v bad).b64d = s.b64d.closeGroup v bad := rfl
@[simp] theorem closeGroup_hexd (acc : Group) (k v : Nat) (bad : Bool) :
    (s.closeGroup acc k v bad).hexd = s.hexd := rfl
@[simp] theorem closeGroup_freeD (acc : Group) (k v : Nat) (bad : Bool) :
    (s.closeGroup acc k v bad).freeD = s.freeD := rfl
@[simp] theorem closeGroup_freeH (acc : Group) (k v : Nat) (bad : Bool) :
    (s.closeGroup acc k v bad).freeH = s.freeH := rfl
@[simp] theorem closeGroup_b64e_out (acc : Group) (k v : Nat) (bad : Bool) :
    (s.closeGroup acc k v bad).sinks.b64e_out = s.sinks.b64e_out := rfl
@[simp] theorem closeGroup_b64d_out (acc : Group) (k v : Nat) (bad : Bool) :
    (s.closeGroup acc k v bad).sinks.b64d_out = s.sinks.b64d_out ++
      extractBytes (justifyAcc s.params.justify acc k) (byteCount v) := rfl
@[simp] theorem closeGroup_hexe_out (acc : Group) (k v : Nat) (bad : Bool) :
    (s.closeGroup acc k v bad).sinks.hexe_out = s.sinks.hexe_out := rfl
@[simp] theorem closeGroup_hexd_out (acc : Group) (k v : Nat) (bad : Bool) :
    (s.closeGroup acc k v bad).sinks.hexd_out = s.sinks.hexd_out := rfl
@[simp] theorem closeGroup_b64d_res (acc : Group) (k v : Nat) (bad : Bool) :
    (s.closeGroup acc k v bad).sinks.b64d_res = s.sinks.b64d_res := rfl
@[simp] theorem closeGroup_hexd_res (acc : Group) (k v : Nat) (bad : Bool) :
    (s.closeGroup acc k v bad).sinks.hexd_res = s.sinks.hexd_res := rfl

end Sys2Proof.Machine.State
end

