-- ==== Sys2Proof/Laws/Ops.lean ====
section
/-! SUPPORT. One lemma per shared operation, which says what it can do; the provers cite these
instead of unfolding the operations. -/

namespace Sys2Proof.Machine

@[simp] theorem done_eq (t : State) : done t = .next t := rfl

/-! ### The datapath -/

theorem byteCount_eq (v : Nat) (h : v ≤ 4) : byteCount v = v - 1 := by
  interval_cases v <;> rfl

theorem byteCount_le_three (v : Nat) : byteCount v ≤ 3 := by
  unfold byteCount
  split <;> omega

/-- As many bytes are extracted as the group yields (41_b64_decoder.md R124, R125). -/
theorem extractBytes_length (acc : Group) (v : Nat) :
    (extractBytes acc (byteCount v)).length = byteCount v := by
  have := byteCount_le_three v
  simp [extractBytes]
  omega

/-- The first symbols of a group leave room for one more digit in the accumulator (R7 (b), R123). -/
theorem accumPad_toNat (acc : Group) (k : Nat) (hk : k < 4) (h : acc.toNat < 2 ^ (6 * k)) :
    (accumPad acc).toNat = acc.toNat * 64 := by
  have : acc.toNat < 2 ^ 18 := lt_of_lt_of_le h (Nat.pow_le_pow_right (by omega) (by omega))
  simp only [accumPad, BitVec.toNat_shiftLeft, Nat.shiftLeft_eq]
  omega

/-- An alphabet symbol enters the low six bits, which are zero after the shift (R7 (a), R123). -/
theorem accumAlpha_toNat (acc : Group) (x : Sextet) (k : Nat) (hk : k < 4)
    (h : acc.toNat < 2 ^ (6 * k)) : (accumAlpha acc x).toNat = acc.toNat * 64 + x.toNat := by
  have hp := accumPad_toNat acc k hk h
  have hx := x.isLt
  simp only [accumPad] at hp
  simp only [accumAlpha, BitVec.toNat_or, hp, BitVec.toNat_setWidth]
  rw [Nat.mod_eq_of_lt (by omega), Nat.mul_comm, show (64 : Nat) = 2 ^ 6 from rfl,
    ← Nat.two_pow_add_eq_or_of_lt hx]

/-- The alphabet and the classifier are inverse to each other on the alphabet (20_memory.md R53). -/
theorem class64_alpha64 : ∀ v : Sextet, class64 (alpha64 v) = .alpha v := by decide

theorem class64_padChar : class64 padChar = .pad := by decide

/-- The digits and their classifier (20_memory.md R55). -/
theorem ascNib_nibAsc : ∀ n : Nibble, ascNib (nibAsc n) = some n := by decide

theorem alpha64_isB64Char : ∀ v : Sextet, isB64Char (alpha64 v) = true := by decide

theorem nibAsc_isHexChar : ∀ n : Nibble, isHexChar (nibAsc n) = true := by decide

theorem chars24_isB64Char (b0 b1 b2 c : Sym) (h : c ∈ chars24 b0 b1 b2) : isB64Char c = true := by
  simp only [chars24, repack24, List.mem_cons, List.not_mem_nil, or_false] at h
  rcases h with rfl | rfl | rfl | rfl <;> exact alpha64_isB64Char _

theorem chars16_isB64Char (b0 b1 c : Sym) (h : c ∈ chars16 b0 b1) : isB64Char c = true := by
  simp only [chars16, repack16, List.mem_cons, List.not_mem_nil, or_false] at h
  rcases h with rfl | rfl | rfl | rfl
  · exact alpha64_isB64Char _
  · exact alpha64_isB64Char _
  · exact alpha64_isB64Char _
  · decide

theorem chars8_isB64Char (b0 c : Sym) (h : c ∈ chars8 b0) : isB64Char c = true := by
  simp only [chars8, repack8, List.mem_cons, List.not_mem_nil, or_false] at h
  rcases h with rfl | rfl | rfl | rfl
  · exact alpha64_isB64Char _
  · exact alpha64_isB64Char _
  · decide
  · decide

theorem hexChars_isHexChar (b c : Sym) (h : c ∈ hexChars b) : isHexChar c = true := by
  simp only [hexChars, split8, List.mem_cons, List.not_mem_nil, or_false] at h
  rcases h with rfl | rfl <;> exact nibAsc_isHexChar _

/-! ### The reported count (70_reset_and_hazards.md R207) -/

theorem reportedCount_lt (w n f : Nat) : reportedCount w n f < 2 ^ w := by
  unfold reportedCount inEnvelope
  split
  · next h => simpa using h
  · exact Nat.mod_lt _ (Nat.two_pow_pos w)

theorem reportedCount_of_lt (w n f : Nat) (h : n < 2 ^ w) : reportedCount w n f = n := by
  simp [reportedCount, inEnvelope, h]

theorem nextFree_of_lt (w n f : Nat) (h : n < 2 ^ w) : nextFree w n f = f := by
  simp [nextFree, inEnvelope, h]

/-! ### Closing a group (41_b64_decoder.md R127) -/

/-- A group that closes leaves the group registers at zero, whatever it held. -/
theorem closeGroup_regs (r : B64D) (v : Nat) (bad : Bool) :
    (r.closeGroup v bad).d_acc = 0#24 ∧ (r.closeGroup v bad).d_pos = 0#2 ∧
      (r.closeGroup v bad).d_nvalid = 0#2 := by
  cases h : groupError v bad <;> simp [B64D.closeGroup, h, B64D.failWith, B64D.clearGroup]

theorem closeGroup_count (r : B64D) (v : Nat) (bad : Bool) :
    (r.closeGroup v bad).d_count = r.d_count + byteCount v := by
  cases h : groupError v bad <;> simp [B64D.closeGroup, h, B64D.failWith, B64D.clearGroup]

/-- The error of a closing group, if any, is the flag and the cause it leaves. -/
theorem closeGroup_status (r : B64D) (v : Nat) (bad : Bool) :
    (groupError v bad = none ∧ (r.closeGroup v bad).d_fail = r.d_fail ∧
      (r.closeGroup v bad).d_cause = r.d_cause) ∨
    (∃ c, groupError v bad = some c ∧ (r.closeGroup v bad).d_fail = true ∧
      (r.closeGroup v bad).d_cause = c) := by
  cases h : groupError v bad <;> simp [B64D.closeGroup, h, B64D.failWith, B64D.clearGroup]

/-- A closing group can only be malformed or insufficient (60_exceptions.md R181, R187). -/
theorem groupError_cases (v : Nat) (bad : Bool) :
    (groupError v bad = none ∧ bad = false ∧ 2 ≤ v) ∨
    (groupError v bad = some .malformedChar ∧ bad = true) ∨
    (groupError v bad = some .insufficientGroup ∧ bad = false ∧ v < 2) := by
  cases bad
  · by_cases h : v < 2
    · simp [groupError, h]
    · simp [groupError, h]; omega
  · simp [groupError]

/-- One more symbol: the fourth closes the group, an earlier one is stored (41_b64_decoder.md R133). -/
theorem accumulate_cases (acc : Group) (v : Nat) (s : State) :
    (s.b64d.d_pos = 3#2 ∧ s.accumulate acc v = s.closeGroup acc 4 v false) ∨
    (s.b64d.d_pos ≠ 3#2 ∧ s.accumulate acc v = s.setB64d { s.b64d with
      d_acc := acc, d_pos := s.b64d.d_pos + 1#2, d_nvalid := BitVec.ofNat 2 v }) := by
  by_cases h : s.b64d.d_pos = 3#2
  · exact .inl ⟨h, by simp [State.accumulate, h]⟩
  · exact .inr ⟨h, by simp [State.accumulate, h]⟩

/-- What B64D can do with a symbol: nothing, close the group, or store it. -/
theorem b64dSymbol_cases (c : Class64) (s : State) :
    (c = .ws ∧ s.b64dSymbol c = s) ∨
    (∃ acc k v bad, v ≤ 4 ∧ s.b64dSymbol c = s.closeGroup acc k v bad) ∨
    (∃ acc v, v ≤ s.b64d.d_nvalid.toNat + 1 ∧ s.b64d.d_pos ≠ 3#2 ∧ s.b64dSymbol c =
      s.setB64d { s.b64d with
        d_acc := acc, d_pos := s.b64d.d_pos + 1#2, d_nvalid := BitVec.ofNat 2 v }) := by
  have hv := s.b64d.d_nvalid.isLt
  cases c with
  | ws => exact .inl ⟨rfl, rfl⟩
  | invalid => exact .inr (.inl ⟨_, _, _, _, by omega, rfl⟩)
  | pad =>
    rcases accumulate_cases (accumPad s.b64d.d_acc) s.b64d.d_nvalid.toNat s with ⟨_, h⟩ | ⟨hp, h⟩
    · exact .inr (.inl ⟨_, _, _, _, by omega, h⟩)
    · exact .inr (.inr ⟨_, _, by omega, hp, h⟩)
  | alpha x =>
    rcases accumulate_cases (accumAlpha s.b64d.d_acc x) (s.b64d.d_nvalid.toNat + 1) s with
      ⟨_, h⟩ | ⟨hp, h⟩
    · exact .inr (.inl ⟨_, _, _, _, by omega, h⟩)
    · exact .inr (.inr ⟨_, _, le_refl _, hp, h⟩)

/-- The end of a message closes the group in progress, or there is none. -/
theorem closeLastGroup_cases (s : State) :
    (s.b64d.d_fail = false ∧ s.b64d.d_pos ≠ 0#2 ∧ s.closeLastGroup =
      s.closeGroup s.b64d.d_acc s.b64d.d_pos.toNat s.b64d.d_nvalid.toNat false) ∨
    ((s.b64d.d_fail = true ∨ s.b64d.d_pos = 0#2) ∧ s.closeLastGroup = s) := by
  by_cases h : s.b64d.stopped = false ∧ s.b64d.d_pos ≠ 0#2
  · exact .inl ⟨h.1, h.2, by simp only [State.closeLastGroup, if_pos h]⟩
  · refine .inr ⟨?_, by simp only [State.closeLastGroup, if_neg h]⟩
    by_cases hf : s.b64d.d_fail = true
    · exact .inl hf
    · exact .inr (by_contra fun hp => h ⟨by simpa [B64D.stopped] using hf, hp⟩)

/-- A completed pair emits and counts one byte, or fails and emits none (43_hex_decoder.md R168). -/
theorem completePair_cases (q : Option Nibble) (s : State) :
    (∃ n, s.hexd.h_hi_ok = true ∧ q = some n ∧ s.completePair q =
      (s.emitHexd [join8 s.hexd.h_hi n]).setHexd
        { s.hexd with h_phase := false, h_count := s.hexd.h_count + 1 }) ∨
    ((s.hexd.h_hi_ok = false ∨ q = none) ∧ s.completePair q =
      s.setHexd { s.hexd with h_phase := false, h_fail := true, h_cause := .malformedChar }) := by
  cases q with
  | none =>
    refine .inr ⟨.inr rfl, ?_⟩
    cases h : s.hexd.h_hi_ok <;> simp [State.completePair, HEXD.failWith, h]
  | some n =>
    cases h : s.hexd.h_hi_ok
    · exact .inr ⟨.inl rfl, by simp [State.completePair, HEXD.failWith, h]⟩
    · exact .inl ⟨n, rfl, rfl, by simp [State.completePair, h]⟩

/-- The held symbol at the end of a message is judged odd, or there is none (43_hex_decoder.md R169). -/
theorem judgeEnd_cases (r : HEXD) :
    (r.h_fail = false ∧ r.h_phase = true ∧
      r.judgeEnd = { r with h_fail := true, h_cause := .oddTrailing }) ∨
    ((r.h_fail = true ∨ r.h_phase = false) ∧ r.judgeEnd = r) := by
  cases hf : r.h_fail <;> cases hp : r.h_phase <;>
    simp [HEXD.judgeEnd, HEXD.stopped, HEXD.failWith, hf, hp]

end Sys2Proof.Machine
end

