-- ==== Sys2Proof/Laws/Exec.lean ====
section
/-! SUPPORT. Commands do not look at the host's inputs, and runs of commands compose. -/

namespace Sys2Proof.Machine

/-- Every command completes (60_exceptions.md R180). -/
theorem exec_isNext (i : Instr) (s : State) : ∃ t, exec i s = .next t := by
  cases i <;> exact ⟨_, rfl⟩

theorem closeGroup_setInput (acc : Group) (k v : Nat) (bad : Bool) (l : List HostInput) (s : State) :
    (s.setInput l).closeGroup acc k v bad = (s.closeGroup acc k v bad).setInput l := rfl

theorem accumulate_setInput (acc : Group) (v : Nat) (l : List HostInput) (s : State) :
    (s.setInput l).accumulate acc v = (s.accumulate acc v).setInput l := by
  unfold State.accumulate
  by_cases h : s.b64d.d_pos = 3#2
  · rw [if_pos (show (s.setInput l).b64d.d_pos = 3#2 from h), if_pos h]; rfl
  · rw [if_neg (show ¬(s.setInput l).b64d.d_pos = 3#2 from h), if_neg h]; rfl

theorem closeLastGroup_setInput (l : List HostInput) (s : State) :
    (s.setInput l).closeLastGroup = s.closeLastGroup.setInput l := by
  unfold State.closeLastGroup
  by_cases h : s.b64d.stopped = false ∧ s.b64d.d_pos ≠ 0#2
  · rw [if_pos (show (s.setInput l).b64d.stopped = false ∧ (s.setInput l).b64d.d_pos ≠ 0#2 from h),
      if_pos h]; rfl
  · rw [if_neg (show ¬((s.setInput l).b64d.stopped = false ∧ (s.setInput l).b64d.d_pos ≠ 0#2) from h),
      if_neg h]

theorem b64dSymbol_setInput (c : Class64) (l : List HostInput) (s : State) :
    (s.setInput l).b64dSymbol c = (s.b64dSymbol c).setInput l := by
  cases c with
  | ws => rfl
  | invalid => rfl
  | pad => exact accumulate_setInput _ _ l s
  | alpha x => exact accumulate_setInput _ _ l s

theorem completePair_setInput (q : Option Nibble) (l : List HostInput) (s : State) :
    (s.setInput l).completePair q = (s.completePair q).setInput l := by
  unfold State.completePair
  rw [State.setInput_hexd]
  cases s.hexd.h_hi_ok <;> cases q <;> rfl

/-- What a command does is the same whatever the host has issued after it (20_memory.md R64). -/
theorem exec_setInput (i : Instr) (s t : State) (l : List HostInput) (h : exec i s = .next t) :
    exec i (s.setInput l) = .next (t.setInput l) := by
  cases i with
  | b64eNop => cases h; rfl
  | b64eData a =>
    cases h
    simp only [exec, execB64eData, done_eq, State.setInput_b64e]
    generalize s.b64e.e_phase = p
    fin_cases p <;> rfl
  | b64eEnd =>
    cases h
    simp only [exec, execB64eEnd, done_eq, State.setInput_b64e]
    generalize s.b64e.e_phase = p
    fin_cases p <;> rfl
  | b64dNop => cases h; rfl
  | b64dData a =>
    cases h
    simp only [exec, execB64dData, done_eq, State.setInput_b64d, b64dSymbol_setInput]
    by_cases hs : s.b64d.stopped = true
    · simp only [if_pos hs]
    · simp only [if_neg hs]
  | b64dEnd =>
    cases h
    simp only [exec, execB64dEnd, done_eq, closeLastGroup_setInput]
    rfl
  | hexeNop => cases h; rfl
  | hexeData a => cases h; rfl
  | hexeEnd => cases h; rfl
  | hexdNop => cases h; rfl
  | hexdData a =>
    cases h
    simp only [exec, execHexdData, done_eq, State.setInput_hexd, completePair_setInput]
    by_cases hs : s.hexd.stopped = true
    · simp only [if_pos hs]
    · by_cases hp : s.hexd.h_phase = true
      · simp only [if_neg hs, if_pos hp]
      · simp only [if_neg hs, if_neg hp]; rfl
  | hexdEnd => cases h; rfl

/-- A command leaves the host's inputs as they are. -/
theorem exec_input (i : Instr) (s t : State) (h : exec i s = .next t) : t.input = s.input := by
  have h2 := exec_setInput i s t s.input h
  have h3 : exec i s = .next (t.setInput s.input) := h2
  rw [h] at h3
  injection h3 with h4
  rw [h4, State.setInput_input]

@[simp] theorem runCommands_nil (s : State) : runCommands [] s = .next s := rfl

/-- The first command of a run, then the rest. -/
theorem runCommands_cons (i : Instr) (is : List Instr) (s t : State) (h : exec i s = .next t) :
    runCommands (i :: is) s = runCommands is t := by
  simp [runCommands, h]

/-- Every run completes (60_exceptions.md R180). -/
theorem runCommands_isNext (is : List Instr) (s : State) : ∃ t, runCommands is s = .next t := by
  induction is generalizing s with
  | nil => exact ⟨s, rfl⟩
  | cons i is ih =>
    obtain ⟨t, ht⟩ := exec_isNext i s
    rw [runCommands_cons i is s t ht]
    exact ih t

/-- A run of two lists is the run of the second after the first. -/
theorem runCommands_append (is js : List Instr) (s t : State) (h : runCommands is s = .next t) :
    runCommands (is ++ js) s = runCommands js t := by
  induction is generalizing s with
  | nil =>
    cases h
    rfl
  | cons i is ih =>
    obtain ⟨u, hu⟩ := exec_isNext i s
    rw [List.cons_append, runCommands_cons i _ s u hu]
    rw [runCommands_cons i _ s u hu] at h
    exact ih u h

/-- A step with a command word that decodes executes the command (30_encoding.md R93). -/
theorem step_word (s : State) (w : Word) (rest : List HostInput) (i : Instr)
    (h : s.input = .word w :: rest) (hd : decodeWord w = .ok i) :
    step s = exec i (s.setInput rest) := by
  simp only [step, h, hd]

end Sys2Proof.Machine
end

