-- ==== Sys2Proof/Laws/PerInstr.lean ====
section
/-! SUPPORT. What holds of every command as syntax, one lemma per constructor. -/

namespace Sys2Proof.Laws.OpcodeRows

/-- A command is well formed, its word passes both checks of R82 and R86, exactly its own row of the
opcode map selects it (30_encoding.md R85), and it has an operand exactly when it is a DATA, which is
then its `data` field (R83). -/
def Statement (i : Instr) : Prop :=
  i.wf = true ∧ (encodeWord i).wf = true ∧
  opcodeTable.filter (fun r => r.selects (encodeCmd i)) =
    opcodeTable.filter (fun r => r.unit == i.unit && r.kind == i.kind) ∧
  Machine.operand i = if i.kind = .data then some i.dataField else none

theorem b64eNop : Statement .b64eNop := by unfold Statement; decide
theorem b64eData (arg : Sym) : Statement (.b64eData arg) := by
  unfold Statement
  revert arg
  decide +kernel
theorem b64eEnd : Statement .b64eEnd := by unfold Statement; decide
theorem b64dNop : Statement .b64dNop := by unfold Statement; decide
theorem b64dData (arg : Sym) : Statement (.b64dData arg) := by
  unfold Statement
  revert arg
  decide +kernel
theorem b64dEnd : Statement .b64dEnd := by unfold Statement; decide
theorem hexeNop : Statement .hexeNop := by unfold Statement; decide
theorem hexeData (arg : Sym) : Statement (.hexeData arg) := by
  unfold Statement
  revert arg
  decide +kernel
theorem hexeEnd : Statement .hexeEnd := by unfold Statement; decide
theorem hexdNop : Statement .hexdNop := by unfold Statement; decide
theorem hexdData (arg : Sym) : Statement (.hexdData arg) := by
  unfold Statement
  revert arg
  decide +kernel
theorem hexdEnd : Statement .hexdEnd := by unfold Statement; decide

end Sys2Proof.Laws.OpcodeRows
end

