-- ==== Sys2Proof/Tests/Slice0.lean ====
section
/-! SUPPORT. The model's own tests. Expected values are those of spec/95_test_vectors.md and of the
printed tables of spec/20_memory.md; the row is named in each docstring. The witnesses at the end meet
the hypotheses of the statements. -/

namespace Sys2Proof.Tests
open Sys2Proof Sys2Proof.Machine

/-- The state an outcome gives, if it gives one. -/
def nextState (o : Host.Outcome State Fault Refusal) : Option State :=
  match o with
  | .next t => some t
  | .fault _ => none
  | .refused _ => none

/-- The refusal an outcome gives, if it gives one. -/
def refusalGiven (o : Host.Outcome State Fault Refusal) : Option Refusal :=
  match o with
  | .next _ => none
  | .fault _ => none
  | .refused r => some r

/-- The command a word decodes to, if it does. -/
def command (w : Word) : Option Instr := (decodeWord w).toOption

/-- The reset state with `B64D_JUSTIFY` = 1. -/
def resetJ1 : State := { State.reset with params := { cntW := 32, justify := true } }

/-- The reset state with registers of B64E. -/
def withB64e (p : Fin 3) (b0 b1 : Sym) : State :=
  { State.reset with b64e := { e_phase := p, e_b0 := b0, e_b1 := b1 } }

/-- The reset state with registers of B64D, running. -/
def withB64d (acc : Group) (pos nv : BitVec 2) (n : Nat) : State :=
  { State.reset with b64d :=
      { d_acc := acc, d_pos := pos, d_nvalid := nv, d_count := n, d_fail := false, d_cause := .none } }

/-- The reset state with B64D stopped on MALFORMED_CHAR after `n` bytes. -/
def stoppedB64d (n : Nat) : State :=
  { State.reset with b64d :=
      { d_acc := 0#24, d_pos := 0#2, d_nvalid := 0#2, d_count := n, d_fail := true,
        d_cause := .malformedChar } }

/-- The reset state with registers of HEXD, running. -/
def withHexd (ph ok : Bool) (hi : Nibble) (n : Nat) : State :=
  { State.reset with hexd :=
      { h_phase := ph, h_hi_ok := ok, h_hi := hi, h_count := n, h_fail := false, h_cause := .none } }

/-- The reset state with HEXD stopped on MALFORMED_CHAR after `n` bytes. -/
def stoppedHexd (n : Nat) : State :=
  { State.reset with hexd :=
      { h_phase := false, h_hi_ok := true, h_hi := 0xA#4, h_count := n, h_fail := true,
        h_cause := .malformedChar } }

/-! ### Well-formedness: an ill-formed word for each check -/

/-- Row W20: bit 12 is set. -/
theorem test_wf_refuses_high_bits : Word.highBitsClear 0x1149#16 = false ∧ Word.wf 0x1149#16 = false := by
  decide

/-- Row W15: `kind` = 3. -/
theorem test_wf_refuses_reserved_kind : Word.kindDefined 0x0B12#16 = false ∧ Word.wf 0x0B12#16 = false := by
  decide

/-- A program with one ill-formed word is refused. -/
theorem test_wf_refuses_program : programWf [0x0149#16, 0x0300#16] = false ∧ programWf [0x0149#16] = true := by
  decide

/-! ### Decoding: a word of each command, bit by bit (95_test_vectors.md 3.6) -/

/-- Rows W1, W2. -/
theorem test_decode_b64eNop : command 0b0000000000000000#16 = some .b64eNop ∧
    command 0b0000000011111111#16 = some .b64eNop := by decide
/-- Row W3. -/
theorem test_decode_b64eData : command 0b0000000101001001#16 = some (.b64eData 0x49#8) := by decide
/-- Rows W4, W5. -/
theorem test_decode_b64eEnd : command 0b0000001000000000#16 = some .b64eEnd ∧
    command 0b0000001010100101#16 = some .b64eEnd := by decide
/-- Row W7. -/
theorem test_decode_b64dNop : command 0b0000010000000000#16 = some .b64dNop := by decide
/-- Rows W8, W9. -/
theorem test_decode_b64dData : command 0b0000010100111101#16 = some (.b64dData 0x3D#8) ∧
    command 0b0000010100100000#16 = some (.b64dData 0x20#8) := by decide
/-- Row W10. -/
theorem test_decode_b64dEnd : command 0b0000011000000000#16 = some .b64dEnd := by decide
/-- Row W12. -/
theorem test_decode_hexeNop : command 0b0000100000000000#16 = some .hexeNop := by decide
/-- Row W13. -/
theorem test_decode_hexeData : command 0b0000100111111111#16 = some (.hexeData 0xFF#8) := by decide
/-- Row W14. -/
theorem test_decode_hexeEnd : command 0b0000101000000000#16 = some .hexeEnd := by decide
/-- Row W16. -/
theorem test_decode_hexdNop : command 0b0000110000000000#16 = some .hexdNop := by decide
/-- Row W17. -/
theorem test_decode_hexdData : command 0b0000110101100110#16 = some (.hexdData 0x66#8) := by decide
/-- Row W18. -/
theorem test_decode_hexdEnd : command 0b0000111000000000#16 = some .hexdEnd := by decide
/-- Rows W6, W11, W15, W19, W20. -/
theorem test_decode_refuses : command 0x0300#16 = none ∧ command 0x07FF#16 = none ∧
    command 0x0B12#16 = none ∧ command 0x0F00#16 = none ∧ command 0x1149#16 = none := by decide
/-- A unit's own port takes the low 10 bits of row W17's word. -/
theorem test_decode_port : (decodePort .hexd 0b0101100110#10).toOption = some (.hexdData 0x66#8) := by
  decide

/-- The host's form of the question, on rows W3 and W20. -/
theorem test_decodeTableWord : decodeTableWord 16 0x149 = some (.b64eData 0x49#8) ∧
    decodeTableWord 16 0x1149 = none := by decide

/-- The word is the next thing a step runs: from reset, W3 then does what P1 step 7 does. -/
theorem test_fetch : nextState (step (State.reset.withFetchWord 16 0x149)) =
    nextState (exec (.b64eData 0x49#8) State.reset) := by decide

/-- Row W20 is refused by the step. -/
theorem test_fetch_refuses :
    refusalGiven (step (State.reset.withFetchWord 16 0x1149)) = some .highBitsSet := by decide

/-! ### The constant tables -/

/-- 20_memory.md R52, the printed table. -/
theorem test_alpha64_table : (List.range 64).map (fun i => (alpha64 (BitVec.ofNat 6 i)).toNat) =
    [0x41, 0x42, 0x43, 0x44, 0x45, 0x46, 0x47, 0x48, 0x49, 0x4A, 0x4B, 0x4C, 0x4D, 0x4E, 0x4F, 0x50] ++
    [0x51, 0x52, 0x53, 0x54, 0x55, 0x56, 0x57, 0x58, 0x59, 0x5A, 0x61, 0x62, 0x63, 0x64, 0x65, 0x66] ++
    [0x67, 0x68, 0x69, 0x6A, 0x6B, 0x6C, 0x6D, 0x6E, 0x6F, 0x70, 0x71, 0x72, 0x73, 0x74, 0x75, 0x76] ++
    [0x77, 0x78, 0x79, 0x7A, 0x30, 0x31, 0x32, 0x33, 0x34, 0x35, 0x36, 0x37, 0x38, 0x39, 0x2B, 0x2F] := by
  decide +kernel

/-- 20_memory.md R54, the printed table. -/
theorem test_nibAsc_table : (List.range 16).map (fun n => (nibAsc (BitVec.ofNat 4 n)).toNat) =
    [0x30, 0x31, 0x32, 0x33, 0x34, 0x35, 0x36, 0x37, 0x38, 0x39, 0x61, 0x62, 0x63, 0x64, 0x65, 0x66] := by
  decide +kernel

/-- A `CLASS64` entry as a number: 100 for WS, 101 for PAD, 200 for INVALID, else the digit value. -/
def classNumber : Class64 → Nat
  | .ws => 100
  | .pad => 101
  | .alpha v => v.toNat
  | .invalid => 200

/-- An `ASCNIB` entry as a number: 200 for INVALID, else the digit value. -/
def nibbleNumber : Option Nibble → Nat
  | some n => n.toNat
  | none => 200

/-- 20_memory.md R53, the printed table, and 0x80 to 0xFF all INVALID. -/
theorem test_class64_table : (List.range 256).map (fun c => classNumber (class64 (BitVec.ofNat 8 c))) =
    [200, 200, 200, 200, 200, 200, 200, 200, 200, 100, 100, 200, 200, 100, 200, 200] ++
    [200, 200, 200, 200, 200, 200, 200, 200, 200, 200, 200, 200, 200, 200, 200, 200] ++
    [100, 200, 200, 200, 200, 200, 200, 200, 200, 200, 200, 62, 200, 200, 200, 63] ++
    [52, 53, 54, 55, 56, 57, 58, 59, 60, 61, 200, 200, 200, 101, 200, 200] ++
    [200, 0, 1, 2, 3, 4, 5, 6, 7, 8, 9, 10, 11, 12, 13, 14] ++
    [15, 16, 17, 18, 19, 20, 21, 22, 23, 24, 25, 200, 200, 200, 200, 200] ++
    [200, 26, 27, 28, 29, 30, 31, 32, 33, 34, 35, 36, 37, 38, 39, 40] ++
    [41, 42, 43, 44, 45, 46, 47, 48, 49, 50, 51, 200, 200, 200, 200, 200] ++
    List.replicate 128 200 := by
  decide +kernel

/-- 20_memory.md R55, the printed table, and 0x80 to 0xFF all INVALID. -/
theorem test_ascNib_table : (List.range 256).map (fun c => nibbleNumber (ascNib (BitVec.ofNat 8 c))) =
    [200, 200, 200, 200, 200, 200, 200, 200, 200, 200, 200, 200, 200, 200, 200, 200] ++
    [200, 200, 200, 200, 200, 200, 200, 200, 200, 200, 200, 200, 200, 200, 200, 200] ++
    [200, 200, 200, 200, 200, 200, 200, 200, 200, 200, 200, 200, 200, 200, 200, 200] ++
    [0, 1, 2, 3, 4, 5, 6, 7, 8, 9, 200, 200, 200, 200, 200, 200] ++
    [200, 10, 11, 12, 13, 14, 15, 200, 200, 200, 200, 200, 200, 200, 200, 200] ++
    [200, 200, 200, 200, 200, 200, 200, 200, 200, 200, 200, 200, 200, 200, 200, 200] ++
    [200, 10, 11, 12, 13, 14, 15, 200, 200, 200, 200, 200, 200, 200, 200, 200] ++
    [200, 200, 200, 200, 200, 200, 200, 200, 200, 200, 200, 200, 200, 200, 200, 200] ++
    List.replicate 128 200 := by
  decide +kernel

/-! ### Repackers (95_test_vectors.md 3.1) -/

/-- Rows F3, F6, F9. -/
theorem test_repack24 : repack24 0x49#8 0x27#8 0x6D#8 = (18#6, 18#6, 29#6, 45#6) ∧
    repack24 0x03#8 0xF0#8 0x00#8 = (0#6, 63#6, 0#6, 0#6) ∧
    repack24 0x00#8 0x10#8 0x83#8 = (0#6, 1#6, 2#6, 3#6) := by decide
/-- Rows F12, F13, F16, F19. -/
theorem test_repack_remainders : repack8 0x4D#8 = (19#6, 16#6) ∧ repack8 0xFF#8 = (63#6, 48#6) ∧
    repack16 0x4D#8 0x61#8 = (19#6, 22#6, 4#6) ∧ repack16 0x00#8 0x0F#8 = (0#6, 0#6, 60#6) := by decide
/-- Row F20. -/
theorem test_accum : accumAlpha 0x000492#24 29#6 = 0x01249D#24 ∧
    accumAlpha 0x01249D#24 45#6 = 0x49276D#24 := by decide
/-- Row F21. -/
theorem test_accum_pad : accumPad 0x0004D0#24 = 0x013400#24 ∧ accumPad 0x013400#24 = 0x4D0000#24 := by decide
/-- Row F23. -/
theorem test_byteCount : [0, 1, 2, 3, 4].map byteCount = [0, 0, 1, 2, 3] := by decide
/-- Rows F25, F27, F28, F29. -/
theorem test_extract : extractBytes 0x49276D#24 2 = [0x49#8, 0x27#8] ∧ extractBytes 0x49276D#24 0 = [] ∧
    extractBytes (justifyAcc false 0x010508#24 3) 2 = [0x01#8, 0x05#8] ∧
    extractBytes (justifyAcc true 0x010508#24 3) 2 = [0x41#8, 0x42#8] := by decide
/-- Rows F30, F31. -/
theorem test_split_join : split8 0xA0#8 = (10#4, 0#4) ∧ join8 6#4 13#4 = 0x6D#8 := by decide
/-- P2's records, packed 11 and 8. -/
theorem test_pack : ResultRecord.pack ⟨true, .malformedChar, 1⟩ = 11 ∧
    ResultRecord.pack ⟨false, .none, 1⟩ = 8 := by decide

/-! ### One command at a time (95_test_vectors.md Part 4, 3.2 to 3.7) -/

/-- P4 step 3. -/
theorem test_b64eNop : nextState (exec .b64eNop (withB64e 1 0x4D#8 0x00#8)) =
    some (withB64e 1 0x4D#8 0x00#8) := by decide
/-- P1 step 8. -/
theorem test_b64eData_holds : nextState (exec (.b64eData 0x27#8) (withB64e 1 0x49#8 0x00#8)) =
    some (withB64e 2 0x49#8 0x27#8) := by decide
/-- P1 step 9. -/
theorem test_b64eData_emits :
    (nextState (exec (.b64eData 0x6D#8) (withB64e 2 0x49#8 0x27#8))).map (fun t =>
      (t.sinks.b64e_out, t.b64e)) =
    some ([0x53#8, 0x53#8, 0x64#8, 0x74#8], ⟨0, 0x49#8, 0x27#8⟩) := by decide
/-- Row E8. -/
theorem test_b64eEnd_one : (nextState (exec .b64eEnd (withB64e 1 0x4D#8 0x00#8))).map (fun t =>
      (t.sinks.b64e_out, t.b64e)) =
    some ([0x54#8, 0x51#8, 0x3D#8, 0x3D#8], B64E.reset) := by decide
/-- P4 step 8. -/
theorem test_b64eEnd_two : (nextState (exec .b64eEnd (withB64e 2 0x4D#8 0x61#8))).map (fun t =>
      (t.sinks.b64e_out, t.b64e)) =
    some ([0x54#8, 0x57#8, 0x45#8, 0x3D#8], B64E.reset) := by decide
/-- P4 step 9. -/
theorem test_b64dNop : nextState (exec .b64dNop (withB64d 0x010508#24 3#2 3#2 0)) =
    some (withB64d 0x010508#24 3#2 3#2 0) := by decide
/-- P5 step 3. -/
theorem test_b64dData_accumulates : nextState (exec (.b64dData 0x46#8) (withB64d 0x0004D6#24 2#2 2#2 0)) =
    some (withB64d 0x013585#24 3#2 3#2 0) := by decide
/-- P2 step 2: the byte of an errored group is emitted and counted. -/
theorem test_b64dData_malformed :
    (nextState (exec (.b64dData 0x40#8) (withB64d 0x000001#24 2#2 2#2 0))).map (fun t =>
      (t.sinks.b64d_out, t.b64d)) =
    some ([0x00#8], ⟨0#24, 0#2, 0#2, 1, true, .malformedChar⟩) := by decide
/-- P5 step 9: a short last group under J0, its bytes and the record, packed 40. -/
theorem test_b64dEnd_short : (nextState (exec .b64dEnd (withB64d 0x013584#24 3#2 3#2 3))).map (fun t =>
      (t.sinks.b64d_out, t.sinks.b64d_res, t.b64d)) =
    some ([0x01#8, 0x35#8], [⟨false, .none, 5⟩], B64D.reset) := by decide
/-- P2 step 4. -/
theorem test_b64dEnd_failed : (nextState (exec .b64dEnd (stoppedB64d 1))).map (fun t =>
      (t.sinks.b64d_out, t.sinks.b64d_res, t.b64d)) =
    some ([], [⟨true, .malformedChar, 1⟩], B64D.reset) := by decide
/-- Row M4's NOP counterpart (42_hex_encoder.md R152). -/
theorem test_hexeNop : nextState (exec .hexeNop State.reset) = some State.reset := by decide
/-- Rows X5, X9. -/
theorem test_hexeData : (nextState (exec (.hexeData 0xA0#8) State.reset)).map (fun t => t.sinks.hexe_out) =
      some [0x61#8, 0x30#8] ∧
    (nextState (exec (.hexeData 0x9F#8) State.reset)).map (fun t => t.sinks.hexe_out) =
      some [0x39#8, 0x66#8] := by decide
/-- Row M4. -/
theorem test_hexeEnd : nextState (exec .hexeEnd State.reset) = some State.reset := by decide
/-- Row M13's NOP. -/
theorem test_hexdNop : nextState (exec .hexdNop (withHexd true true 4#4 0)) =
    some (withHexd true true 4#4 0) := by decide
/-- P1 step 1. -/
theorem test_hexdData_pair : (nextState (exec (.hexdData 0x39#8) (withHexd true true 4#4 0))).map (fun t =>
      (t.sinks.hexd_out, t.hexd)) =
    some ([0x49#8], ⟨false, true, 4#4, 1, false, .none⟩) := by decide
/-- Row H28: an invalid second symbol. -/
theorem test_hexdData_malformed : (nextState (exec (.hexdData 0x40#8) (withHexd true true 0#4 0))).map (fun t =>
      (t.sinks.hexd_out, t.hexd)) =
    some ([], ⟨false, true, 0#4, 0, true, .malformedChar⟩) := by decide
/-- P3 step 3, packed 15. -/
theorem test_hexdEnd_odd : (nextState (exec .hexdEnd (withHexd true true 12#4 1))).map (fun t =>
      (t.sinks.hexd_res, t.hexd)) =
    some ([⟨true, .oddTrailing, 1⟩], HEXD.reset) := by decide
/-- P1 step 6, packed 24. -/
theorem test_hexdEnd : (nextState (exec .hexdEnd (withHexd false true 6#4 3))).map (fun t =>
      (t.sinks.hexd_res, t.hexd)) =
    some ([⟨false, .none, 3⟩], HEXD.reset) := by decide
/-- Row M6's RESET: the held byte is dropped, nothing is emitted. -/
theorem test_reset : nextState (step { withB64e 1 0x4D#8 0x00#8 with input := [.reset] }) =
    some State.reset := by decide

/-! ### The reference functions, a few rows -/

/-- Row E33, and the empty message E1. -/
theorem test_b64enc : b64enc ([0x49#8, 0x27#8, 0x6D#8, 0x20#8, 0x6B#8, 0x69#8] ++
      [0x6C#8, 0x6C#8, 0x69#8, 0x6E#8, 0x67#8]) = text "SSdtIGtpbGxpbmc=" ∧ b64enc [] = [] := by
  decide +kernel
/-- Row D10, both settings. -/
theorem test_b64dec_partial : b64dec false (text "ABC@") = ⟨[0x00#8, 0x00#8], ⟨true, .malformedChar, 2⟩⟩ ∧
    b64dec true (text "ABC@") = ⟨[0x00#8, 0x10#8], ⟨true, .malformedChar, 2⟩⟩ := by decide +kernel
/-- Rows D23, D46. -/
theorem test_b64dec_padding : b64dec false (text "Q=UI") = ⟨[0x40#8, 0x05#8], ⟨false, .none, 2⟩⟩ ∧
    b64dec false (text "QUJD=") = ⟨[0x41#8, 0x42#8, 0x43#8], ⟨true, .insufficientGroup, 3⟩⟩ := by
  decide +kernel
/-- Row X6. -/
theorem test_hexenc : hexenc [0x49#8, 0x27#8, 0x6D#8] = text "49276d" := by decide +kernel
/-- Rows H2, H9, H33. -/
theorem test_hexdec : hexdec (text "abc") = ⟨[0xAB#8], ⟨true, .oddTrailing, 1⟩⟩ ∧
    hexdec (text "@") = ⟨[], ⟨true, .oddTrailing, 0⟩⟩ ∧
    hexdec (text "1@2") = ⟨[], ⟨true, .malformedChar, 0⟩⟩ := by decide +kernel

/-! ### The assembler (30_encoding.md R89, R90; 95_test_vectors.md 3.6, P1) -/

/-- Rows W8, W13, W18 and P1's second message. -/
theorem test_assemble : assembleLine (text "B64D.DATA '='") = some [.b64dData 0x3D#8] ∧
    assembleLine (text "HEXE.DATA 255 ; all ones") = some [.hexeData 0xFF#8] ∧
    assembleLine (text "HEXD.END") = some [.hexdEnd] ∧
    assembleLine (text "B64E.BYTES 0x49 0x27 0x6D") =
      some [.b64eData 0x49#8, .b64eData 0x27#8, .b64eData 0x6D#8, .b64eEnd] := by decide +kernel
/-- The first words of P5, an escape among them. -/
theorem test_assemble_msg : assembleLine (text "B64D.MSG \"TW \\n\"") =
    some [.b64dData 0x54#8, .b64dData 0x57#8, .b64dData 0x20#8, .b64dData 0x0A#8, .b64dEnd] := by
  decide +kernel
/-- Row W3 back to text. -/
theorem test_disassemble : disassemble (.b64eData 0x49#8) = text "B64E.DATA 0x49" ∧
    disassemble .hexdEnd = text "HEXD.END" := by decide +kernel

/-! ### Witnesses: states and operands that meet the hypotheses of the statements -/

/-- OpcodeMapPartitionsTheWords: a row and a reserved pattern at both ends of their ranges. -/
theorem witness_opcodeMap :
    (∃ r ∈ opcodeTable, r.selects 0x000#12 = true) ∧ (∃ r ∈ opcodeTable, r.selects 0xEFF#12 = true) ∧
    0x3FF#12 &&& 0xF00#12 ∈ reservedPatterns ∧ 0xF00#12 &&& 0xF00#12 ∈ reservedPatterns := by decide
/-- DecodeInvertsEncode. -/
theorem witness_decodeInverts : Instr.wf (.hexdData 0xFF#8) = true ∧ Instr.wf .b64eNop = true := by decide
/-- DecodeAcceptsExactlyTheCommands, StepRefusesWordsThatAreNoCommand: each clause at its ends. -/
theorem witness_words :
    ((0x1000#16).extractLsb' 12 4 ≠ 0#4 ∧ (0xFFFF#16).extractLsb' 12 4 ≠ 0#4) ∧
    ((0x0300#16).extractLsb' 12 4 = 0#4 ∧ (0x0300#16).extractLsb' 8 2 = 0b11#2 ∧
      (0x0FFF#16).extractLsb' 12 4 = 0#4 ∧ (0x0FFF#16).extractLsb' 8 2 = 0b11#2) ∧
    ((0x0000#16).extractLsb' 12 4 = 0#4 ∧ (0x0000#16).extractLsb' 8 2 ≠ 0b11#2 ∧
      (0x0EFF#16).extractLsb' 12 4 = 0#4 ∧ (0x0EFF#16).extractLsb' 8 2 ≠ 0b11#2) := by decide
/-- StepRefusesWordsThatAreNoCommand: the words of `witness_words`, next in the input. -/
theorem witness_stepRefuses :
    (State.reset.withFetchWord 16 0x1000).input = [.word 0x1000#16] ∧
    (State.reset.withFetchWord 16 0x0FFF).input = [.word 0x0FFF#16] := by decide
/-- PseudoInstructionsExpandToTheMessage: the ends of the printable range, a semicolon and the three
escaped characters in one text, and the empty text. -/
theorem witness_printable :
    (∀ c ∈ ([0x20#8, 0x7E#8, 0x3B#8, 0x09#8, 0x0A#8, 0x0D#8] : List Sym),
      (isPrintable c = true ∧ c ≠ 0x22#8 ∧ c ≠ 0x5C#8) ∨ c = 0x09#8 ∨ c = 0x0A#8 ∨ c = 0x0D#8) ∧
    (∀ c ∈ ([] : List Sym),
      (isPrintable c = true ∧ c ≠ 0x22#8 ∧ c ≠ 0x5C#8) ∨ c = 0x09#8 ∨ c = 0x0A#8 ∨ c = 0x0D#8) := by decide
/-- PseudoInstructionsExpandToTheMessage, OperandsAndCommentsAreRead: an operand in each form of R89, at
the ends of the ranges. -/
theorem witness_operandForms :
    spellsOperand (text "0x00") 0x00#8 ∧ spellsOperand (text "0xfF") 0xFF#8 ∧
    spellsOperand (text "0") 0#8 ∧ spellsOperand (text "10") 10#8 ∧ spellsOperand (text "255") 255#8 ∧
    spellsOperand (text "' '") 0x20#8 ∧ spellsOperand (text "'~'") 0x7E#8 ∧
    spellsOperand (text "'\\t'") 0x09#8 ∧ spellsOperand (text "'\\n'") 0x0A#8 ∧
    spellsOperand (text "'\\r'") 0x0D#8 :=
  ⟨.inl ⟨0x30#8, 0x30#8, 0#4, 0#4, by decide⟩, .inl ⟨0x66#8, 0x46#8, 15#4, 15#4, by decide⟩,
    .inr (.inl (by decide)), .inr (.inl (by decide)), .inr (.inl (by decide)),
    .inr (.inr (.inl (by decide))), .inr (.inr (.inl (by decide))),
    .inr (.inr (.inr (.inl (by decide)))), .inr (.inr (.inr (.inr (.inl (by decide))))),
    .inr (.inr (.inr (.inr (.inr (by decide)))))⟩
/-- StepRunsTheDecodedCommand. -/
theorem witness_stepRuns : (State.reset.withFetchWord 16 0x0D66).input = .word 0x0D66#16 :: [] ∧
    command 0x0D66#16 = some (.hexdData 0x66#8) := by decide
/-- ResetInputClearsEveryRegister. -/
theorem witness_resetInput : ({ stoppedB64d 2 with input := [.reset] } : State).input = .reset :: [] := by
  decide
/-- StepIdlesWithoutInput. -/
theorem witness_idle : (withB64e 2 0x4D#8 0x61#8).input = [] := by decide
/-- ConformingHostIsNeverStopped. -/
theorem witness_conforming : State.HostConforms { State.reset with input := [.reset, .word 0x0149#16] } := by
  intro w h
  have h2 : w = 0x0149#16 := by simpa using h
  subst h2
  decide
/-- B64eDataHoldsThenEmits: each phase. -/
theorem witness_phases : (withB64e 0 0x4D#8 0x61#8).b64e.e_phase = 0 ∧
    (withB64e 1 0x4D#8 0x61#8).b64e.e_phase = 1 ∧ (withB64e 2 0x4D#8 0x61#8).b64e.e_phase = 2 := by decide
/-- GroupCloseEmitsCountsAndJudges, AccumulationLosesNoBit: the ends of the ranges. -/
theorem witness_ranges : (0 : Nat) ≤ 4 ∧ (4 : Nat) ≤ 4 ∧
    ((0 : Nat) < 4 ∧ (0#24).toNat < 2 ^ (6 * 0)) ∧ ((3 : Nat) < 4 ∧ (0x03FFFF#24).toNat < 2 ^ (6 * 3)) := by
  decide
/-- B64dDataByClass: one symbol of each class, at the ends of the alphabet's ranges. -/
theorem witness_classes : class64 0x20#8 = .ws ∧ class64 0x0D#8 = .ws ∧ class64 0x00#8 = .invalid ∧
    class64 0xFF#8 = .invalid ∧ class64 0x3D#8 = .pad ∧ class64 0x41#8 = .alpha 0#6 ∧
    class64 0x2F#8 = .alpha 63#6 := by decide
/-- B64dDataByClass: stopped, running at the last position, and running before it. -/
theorem witness_b64d : (stoppedB64d 1).b64d.d_fail = true ∧
    ((withB64d 0x03FFFF#24 3#2 3#2 0).b64d.d_fail = false ∧ (withB64d 0x03FFFF#24 3#2 3#2 0).b64d.d_pos = 3#2) ∧
    ((withB64d 0x000FFF#24 2#2 2#2 0).b64d.d_fail = false ∧ (withB64d 0x000FFF#24 2#2 2#2 0).b64d.d_pos ≠ 3#2 ∧
      (withB64d 0x000FFF#24 2#2 2#2 0).b64d.d_nvalid.toNat ≤ (withB64d 0x000FFF#24 2#2 2#2 0).b64d.d_pos.toNat) := by
  decide
/-- B64dEndReportsAndClears: the last message inside the envelope, with and without an open group. -/
theorem witness_b64dEnd :
    (withB64d 0x013584#24 3#2 3#2 4294967293).closeLastGroup.b64d.d_count < 2 ^ State.reset.params.cntW ∧
    ((withB64d 0x013584#24 3#2 3#2 4294967293).b64d.d_fail = false ∧
      (withB64d 0x013584#24 3#2 3#2 4294967293).b64d.d_pos ≠ 0#2) ∧
    (stoppedB64d 4294967295).b64d.d_count < 2 ^ State.reset.params.cntW := by decide +kernel
/-- HexdDataHoldsThenJudges: each clause. -/
theorem witness_hexd : (stoppedHexd 1).hexd.h_fail = true ∧
    ((withHexd false false 0#4 0).hexd.h_fail = false ∧ (withHexd false false 0#4 0).hexd.h_phase = false) ∧
    ((withHexd true true 4#4 0).hexd.h_fail = false ∧ (withHexd true true 4#4 0).hexd.h_phase = true ∧
      (withHexd true true 4#4 0).hexd.h_hi_ok = true) ∧
    (withHexd true false 0#4 0).hexd.h_hi_ok = false ∧
    ascNib 0x30#8 = some 0#4 ∧ ascNib 0x66#8 = some 15#4 ∧ ascNib 0x46#8 = some 15#4 ∧
    ascNib 0x2F#8 = none ∧ ascNib 0x67#8 = none := by decide
/-- HexdEndReportsAndClears: the last count inside the envelope. -/
theorem witness_hexdEnd :
    (withHexd true true 12#4 4294967295).hexd.h_count < 2 ^ (withHexd true true 12#4 0).params.cntW := by
  decide
/-- PackedRecordKeepsItsFields. -/
theorem witness_packed : (⟨true, .oddTrailing, 4294967295⟩ : ResultRecord).count < 2 ^ 32 := by decide
/-- B64encLengthAlphabetPaddingAndGroups: whole groups in front. -/
theorem witness_wholeGroups : ([] : List Sym).length % 3 = 0 ∧ [0x4D#8, 0x61#8, 0x6E#8].length % 3 = 0 := by
  decide
/-- B64EncodeOfDecode: a text whose stripped form is an encoding. -/
theorem witness_strippedEncoding : ∃ m, strip (text "TW Fu") = b64enc m :=
  ⟨[0x4D#8, 0x61#8, 0x6E#8], by decide +kernel⟩
/-- JustifyChangesOnlyBytesOfShortGroups (the whole groups of row D34's text), PaddingIsNeverMalformed. -/
theorem witness_noInvalid : ((strip (text "TWE=")).length % 4 = 0 ∧ ∀ c ∈ text "TWE=", class64 c ≠ .invalid) ∧
    ((strip (text "QUJD")).length % 4 = 0 ∧ ∀ c ∈ text "QUJD", class64 c ≠ .invalid) := by decide +kernel
/-- B64decIgnoresTextAfterAMalformedSymbol. -/
theorem witness_malformed : (b64dec false (text "AB@")).result.cause = .malformedChar ∧
    (b64dec true (text "AB@")).result.cause = .malformedChar := by decide +kernel
/-- HexRoundTrip, HexdecJudgesPairByPair: digits of every kind, and symbols that are none. -/
theorem witness_hexText : (text "09afAF").length % 2 = 0 ∧ (∀ c ∈ text "09afAF", (ascNib c).isSome = true) ∧
    ascNib 0x40#8 = none := by decide +kernel
/-- B64eRefinesB64enc: a message with NOPs in it. -/
theorem witness_presents_b64e : State.reset.b64e.e_phase = 0 ∧
    presents .b64e [0x4D#8] [.b64eNop, .b64eData 0x4D#8, .b64eNop, .b64eEnd] := by
  unfold presents
  decide
/-- B64dRefinesB64dec: a message with a NOP, inside the envelope. -/
theorem witness_presents_b64d : State.reset.b64d = .reset ∧
    presents .b64d (text "QU") [.b64dData 0x51#8, .b64dNop, .b64dData 0x55#8, .b64dEnd] ∧
    (b64dec State.reset.params.justify (text "QU")).out.length < 2 ^ State.reset.params.cntW := by
  unfold presents
  decide +kernel
/-- HexeRefinesHexenc. -/
theorem witness_presents_hexe : presents .hexe [0xFF#8] [.hexeNop, .hexeData 0xFF#8, .hexeEnd] := by
  unfold presents
  decide
/-- HexdRefinesHexdec: a message with a NOP, inside the envelope. -/
theorem witness_presents_hexd : State.reset.hexd = .reset ∧
    presents .hexd (text "fF") [.hexdData 0x66#8, .hexdNop, .hexdData 0x46#8, .hexdEnd] ∧
    (hexdec (text "fF")).out.length < 2 ^ State.reset.params.cntW := by
  unfold presents
  decide +kernel
/-- B64dMessagesFollowEachOther: P2's two messages, both settings. -/
theorem witness_messages : State.reset.b64d = .reset ∧ resetJ1.b64d = .reset ∧
    (∀ m ∈ [text "AB@D", text "TQ=="],
      (b64dec State.reset.params.justify m).out.length < 2 ^ State.reset.params.cntW) ∧
    (∀ m ∈ [text "AB@D", text "TQ=="], (b64dec resetJ1.params.justify m).out.length < 2 ^ resetJ1.params.cntW) := by
  decide +kernel
/-- StepKeepsInv, StepKeepsStreamsInv: a state in the middle of a group whose step emits. -/
theorem witness_inv :
    State.Inv { withB64d 0x013585#24 3#2 3#2 0 with input := [.word 0x0575#16] } ∧
    State.StreamsInv { withB64d 0x013585#24 3#2 3#2 0 with input := [.word 0x0575#16] } ∧
    (nextState (step { withB64d 0x013585#24 3#2 3#2 0 with input := [.word 0x0575#16] })).isSome = true := by
  decide +kernel
/-- CommandsOfDifferentUnitsCommute. -/
theorem witness_units : Instr.unit (.b64eData 0x4D#8) ≠ Instr.unit .b64dEnd := by decide
/-- ProgramsDependOnlyOnPerUnitSubsequences: two interleavings of one set of commands. -/
theorem witness_subsequences : ∀ u, commandsOf u [.b64eData 0x4D#8, .hexdEnd, .b64eEnd] =
    commandsOf u [.hexdEnd, .b64eData 0x4D#8, .b64eEnd] := by
  intro u
  cases u <;> decide
/-- CommandsTouchOnlyTheirUnit: a command of another unit, for each unit. -/
theorem witness_otherUnit : Instr.unit .b64dEnd ≠ .b64e ∧ Instr.unit .b64eEnd ≠ .b64d ∧
    Instr.unit .b64eEnd ≠ .hexe ∧ Instr.unit .b64eEnd ≠ .hexd := by decide
/-- StreamsOnlyGrow, CommandsEmitAtMost: a step and a command that emit. -/
theorem witness_emits :
    (∃ t, step ((withB64e 2 0x49#8 0x27#8).withFetchWord 16 0x016D) = .next t ∧ t.sinks.b64e_out.length = 4) ∧
    (∃ t, exec (.b64eData 0x6D#8) (withB64e 2 0x49#8 0x27#8) = .next t ∧ t.sinks.b64e_out.length = 4) :=
  ⟨⟨_, rfl, rfl⟩, ⟨_, rfl, rfl⟩⟩
/-- FailureIsFrozenUntilEnd: both decoders, with commands that are not their END. -/
theorem witness_frozen : (∃ t, runCommands [.b64dData 0x51#8, .hexdEnd] (stoppedB64d 1) = .next t) ∧
    (stoppedB64d 1).b64d.d_fail = true ∧ Instr.b64dEnd ∉ [Instr.b64dData 0x51#8, .hexdEnd] ∧
    (∃ t, runCommands [.hexdData 0x51#8, .b64dEnd] (stoppedHexd 1) = .next t) ∧
    (stoppedHexd 1).hexd.h_fail = true ∧ Instr.hexdEnd ∉ [Instr.hexdData 0x51#8, .b64dEnd] :=
  ⟨⟨_, rfl⟩, by decide, by decide, ⟨_, rfl⟩, by decide, by decide⟩
/-- ErrorsAreEnteredExactlyWhen: a running state at the last position of a group and of a pair. -/
theorem witness_errors : State.Inv (withB64d 0x000000#24 3#2 1#2 0) ∧
    (withB64d 0x000000#24 3#2 1#2 0).b64d.d_fail = false ∧ (withB64d 0x000000#24 3#2 1#2 0).b64d.d_pos = 3#2 ∧
    State.Inv (withHexd true false 0#4 0) ∧ (withHexd true false 0#4 0).hexd.h_fail = false := by decide +kernel
/-- StaleHoldingRegistersAreNeverRead: the state P1 step 9 leaves. -/
theorem witness_stale : (withB64e 0 0x49#8 0x27#8).b64e.e_phase = 0 ∧
    (withB64e 0 0x49#8 0x27#8).hexd.h_phase = false := by decide
/-- CountersCountTheEmittedSymbols, ResetAbandonsOpenMessages: a run without END of a decoder (row M7). -/
theorem witness_noEnd : Instr.b64dEnd ∉ [Instr.b64dData 0x51#8, .b64dData 0x55#8, .b64eEnd] ∧
    Instr.hexdEnd ∉ [Instr.b64dData 0x51#8, .b64dData 0x55#8, .b64eEnd] := by decide
/-- WhitespaceDoesNotChangeTheDecode: each of the four symbols. -/
theorem witness_whitespace : ∀ w ∈ ([0x20#8, 0x09#8, 0x0A#8, 0x0D#8] : List Sym), class64 w = .ws := by decide

end Sys2Proof.Tests
end

/-! PROOFS. O28: the accumulator of an open group (00_scope.md R7; 41_b64_decoder.md R123). -/

namespace Sys2Proof.Machine

/-- One more digit fits the accumulator of a group of `k + 1` symbols (41_b64_decoder.md R123). -/
theorem accumAlpha_lt (acc : Group) (x : Sextet) (k : Nat) (hk : k < 4)
    (h : acc.toNat < 2 ^ (6 * k)) : (accumAlpha acc x).toNat < 2 ^ (6 * (k + 1)) := by
  have hx := x.isLt
  calc (accumAlpha acc x).toNat = acc.toNat * 64 + x.toNat := accumAlpha_toNat acc x k hk h
    _ < 2 ^ (6 * k) * 64 := by omega
    _ = 2 ^ (6 * (k + 1)) := by rw [Nat.mul_add, Nat.pow_add]

/-- Settles O28: both steps of `ACCUM` by their values, and the bound by one more digit. -/
theorem accumulationLosesNoBit : Obligations.AccumulationLosesNoBit := by
  unfold Obligations.AccumulationLosesNoBit
  intro acc k x hk h
  refine ⟨?_, ?_, accumAlpha_lt acc x k hk h⟩
  · rw [accumPad_toNat acc k hk h, Nat.mul_comm]
  · rw [accumAlpha_toNat acc x k hk h, Nat.mul_comm]

end Sys2Proof.Machine

/-! PROOFS. O50: a command is made of updates of its own unit's registers and streams (00_scope.md R2;
10_state.md R20; 20_memory.md R68). -/

namespace Sys2Proof.Machine

/-- The second state comes from the first by updates of the registers and streams of one unit: its
registers written, symbols emitted, a result reported. -/
inductive UpdatesOnly : UnitId → State → State → Prop where
  | refl {u s} : UpdatesOnly u s s
  | setB64e {s t} (r : B64E) (h : UpdatesOnly .b64e s t) : UpdatesOnly .b64e s (t.setB64e r)
  | emitB64e {s t} (vs : List Sym) (h : UpdatesOnly .b64e s t) : UpdatesOnly .b64e s (t.emitB64e vs)
  | setB64d {s t} (r : B64D) (h : UpdatesOnly .b64d s t) : UpdatesOnly .b64d s (t.setB64d r)
  | emitB64d {s t} (vs : List Sym) (h : UpdatesOnly .b64d s t) : UpdatesOnly .b64d s (t.emitB64d vs)
  | emitResultB64d {s t} (h : UpdatesOnly .b64d s t) : UpdatesOnly .b64d s t.emitResultB64d
  | emitHexe {s t} (vs : List Sym) (h : UpdatesOnly .hexe s t) : UpdatesOnly .hexe s (t.emitHexe vs)
  | setHexd {s t} (r : HEXD) (h : UpdatesOnly .hexd s t) : UpdatesOnly .hexd s (t.setHexd r)
  | emitHexd {s t} (vs : List Sym) (h : UpdatesOnly .hexd s t) : UpdatesOnly .hexd s (t.emitHexd vs)
  | emitResultHexd {s t} (h : UpdatesOnly .hexd s t) : UpdatesOnly .hexd s t.emitResultHexd

namespace UpdatesOnly

/-! ### What the shared operations and the commands of a unit update -/

theorem of_closeGroup (acc : Group) (k v : Nat) (bad : Bool) (s : State) :
    UpdatesOnly .b64d s (s.closeGroup acc k v bad) :=
  .setB64d _ (.emitB64d _ .refl)

theorem of_b64dSymbol (c : Class64) (s : State) : UpdatesOnly .b64d s (s.b64dSymbol c) := by
  rcases b64dSymbol_cases c s with ⟨-, h⟩ | ⟨acc, k, v, bad, -, h⟩ | ⟨acc, v, -, -, h⟩ <;> rw [h]
  · exact .refl
  · exact of_closeGroup acc k v bad s
  · exact .setB64d _ .refl

theorem of_closeLastGroup (s : State) : UpdatesOnly .b64d s s.closeLastGroup := by
  rcases closeLastGroup_cases s with ⟨-, -, h⟩ | ⟨-, h⟩ <;> rw [h]
  · exact of_closeGroup _ _ _ _ s
  · exact .refl

theorem of_completePair (q : Option Nibble) (s : State) : UpdatesOnly .hexd s (s.completePair q) := by
  rcases completePair_cases q s with ⟨n, -, -, h⟩ | ⟨-, h⟩ <;> rw [h]
  · exact .setHexd _ (.emitHexd _ .refl)
  · exact .setHexd _ .refl

/-- Every command completes by updates of its own unit alone (00_scope.md R2; 60_exceptions.md R180). -/
theorem of_exec (i : Instr) (s : State) : ∃ t, exec i s = .next t ∧ UpdatesOnly i.unit s t := by
  cases i with
  | b64eNop | b64dNop | hexeNop | hexeEnd | hexdNop => exact ⟨s, rfl, .refl⟩
  | b64eData a =>
    refine ⟨_, rfl, ?_⟩
    split
    · exact .setB64e _ .refl
    · exact .setB64e _ .refl
    · exact .setB64e _ (.emitB64e _ .refl)
  | b64eEnd =>
    refine ⟨_, rfl, .setB64e _ ?_⟩
    split
    · exact .refl
    · exact .emitB64e _ .refl
    · exact .emitB64e _ .refl
  | b64dData a =>
    refine ⟨_, rfl, ?_⟩
    split
    · exact .refl
    · exact of_b64dSymbol (class64 a) s
  | b64dEnd => exact ⟨_, rfl, .setB64d _ (.emitResultB64d (of_closeLastGroup s))⟩
  | hexeData a => exact ⟨_, rfl, .emitHexe _ .refl⟩
  | hexdData a =>
    refine ⟨_, rfl, ?_⟩
    split
    · exact .refl
    · split
      · exact of_completePair (ascNib a) s
      · exact .setHexd _ .refl
  | hexdEnd => exact ⟨_, rfl, .setHexd _ (.emitResultHexd (.setHexd _ .refl))⟩

/-! ### What the updates of one unit leave unchanged -/

variable {u : UnitId} {s t : State}

theorem params_eq (h : UpdatesOnly u s t) : t.params = s.params := by
  induction h with
  | refl => rfl
  | _ => rename_i ih; exact ih

theorem input_eq (h : UpdatesOnly u s t) : t.input = s.input := by
  induction h with
  | refl => rfl
  | _ => rename_i ih; exact ih

theorem b64e_eq (h : UpdatesOnly u s t) (hu : u ≠ .b64e) :
    t.b64e = s.b64e ∧ t.sinks.b64e_out = s.sinks.b64e_out := by
  induction h with
  | refl => exact ⟨rfl, rfl⟩
  | setB64e | emitB64e => exact absurd rfl hu
  | _ => rename_i ih; exact ih hu

theorem b64d_eq (h : UpdatesOnly u s t) (hu : u ≠ .b64d) :
    t.b64d = s.b64d ∧ t.sinks.b64d_out = s.sinks.b64d_out ∧
      t.sinks.b64d_res = s.sinks.b64d_res ∧ t.freeD = s.freeD := by
  induction h with
  | refl => exact ⟨rfl, rfl, rfl, rfl⟩
  | setB64d | emitB64d | emitResultB64d => exact absurd rfl hu
  | _ => rename_i ih; exact ih hu

theorem hexe_eq (h : UpdatesOnly u s t) (hu : u ≠ .hexe) : t.sinks.hexe_out = s.sinks.hexe_out := by
  induction h with
  | refl => rfl
  | emitHexe => exact absurd rfl hu
  | _ => rename_i ih; exact ih hu

theorem hexd_eq (h : UpdatesOnly u s t) (hu : u ≠ .hexd) :
    t.hexd = s.hexd ∧ t.sinks.hexd_out = s.sinks.hexd_out ∧
      t.sinks.hexd_res = s.sinks.hexd_res ∧ t.freeH = s.freeH := by
  induction h with
  | refl => exact ⟨rfl, rfl, rfl, rfl⟩
  | setHexd | emitHexd | emitResultHexd => exact absurd rfl hu
  | _ => rename_i ih; exact ih hu

end UpdatesOnly

/-- Settles O50: a command completes by updates of its own unit, and those leave the rest unchanged. -/
theorem commandsTouchOnlyTheirUnit : Obligations.CommandsTouchOnlyTheirUnit := by
  unfold Obligations.CommandsTouchOnlyTheirUnit
  intro i s
  obtain ⟨t, ht, h⟩ := UpdatesOnly.of_exec i s
  exact ⟨t, ht, h.params_eq, h.input_eq, h.b64e_eq, h.b64d_eq, h.hexe_eq, h.hexd_eq⟩

end Sys2Proof.Machine

/-! PROOFS. What a step, a run and a decoder's part of a command can do, each said once (20_memory.md
R70; 30_encoding.md R93; 60_exceptions.md R180). -/

namespace Sys2Proof.Machine

/-- A step idles, applies RESET, or executes a command, with the input it took consumed. -/
theorem step_cases {s t : State} (h : step s = .next t) :
    t = s ∨ (∃ rest, t = (s.setInput rest).applyReset) ∨
      ∃ i rest, exec i (s.setInput rest) = .next t := by
  unfold step at h
  split at h
  · cases h
    exact .inl rfl
  · next rest _ =>
    cases h
    exact .inr (.inl ⟨rest, rfl⟩)
  · next w rest _ =>
    split at h
    · next i _ => exact .inr (.inr ⟨i, rest, h⟩)
    · cases h

/-- What every command of a run keeps, the run keeps. -/
theorem runCommands_invariant {P : State → Prop} {is : List Instr}
    (hexec : ∀ i ∈ is, ∀ s t, P s → exec i s = .next t → P t) {s t : State} (hs : P s)
    (h : runCommands is s = .next t) : P t := by
  induction is generalizing s with
  | nil =>
    cases h
    exact hs
  | cons i is ih =>
    obtain ⟨u, hu⟩ := exec_isNext i s
    rw [runCommands_cons i is s u hu] at h
    exact ih (fun j hj => hexec j (List.mem_cons_of_mem i hj)) (hexec i List.mem_cons_self s u hs hu) h

theorem updatesOnly_of_exec_eq {i : Instr} {s t : State} (h : exec i s = .next t) :
    UpdatesOnly i.unit s t := by
  obtain ⟨u, hu, hs⟩ := UpdatesOnly.of_exec i s
  rw [h] at hu
  cases hu
  exact hs

/-- B64D's registers and streams are those of the first state. -/
def KeepsB64d (s t : State) : Prop :=
  t.b64d = s.b64d ∧ t.sinks.b64d_out = s.sinks.b64d_out ∧ t.sinks.b64d_res = s.sinks.b64d_res

/-- HEXD's registers and streams are those of the first state. -/
def KeepsHexd (s t : State) : Prop :=
  t.hexd = s.hexd ∧ t.sinks.hexd_out = s.sinks.hexd_out ∧ t.sinks.hexd_res = s.sinks.hexd_res

theorem KeepsB64d.of_unit_ne {i : Instr} {s t : State} (h : exec i s = .next t)
    (hi : i.unit ≠ .b64d) : KeepsB64d s t := by
  obtain ⟨hr, ho, hres, -⟩ := (updatesOnly_of_exec_eq h).b64d_eq hi
  exact ⟨hr, ho, hres⟩

theorem KeepsHexd.of_unit_ne {i : Instr} {s t : State} (h : exec i s = .next t)
    (hi : i.unit ≠ .hexd) : KeepsHexd s t := by
  obtain ⟨hr, ho, hres, -⟩ := (updatesOnly_of_exec_eq h).hexd_eq hi
  exact ⟨hr, ho, hres⟩

/-- What a command can do to B64D: nothing, a symbol while RUNNING, or END (41_b64_decoder.md R132 to
R134; 10_state.md R35). -/
theorem exec_b64d_cases {i : Instr} {s t : State} (h : exec i s = .next t) :
    KeepsB64d s t ∨
    (∃ a, i = .b64dData a ∧ s.b64d.d_fail = false ∧ t = s.b64dSymbol (class64 a)) ∨
    (i = .b64dEnd ∧ t = s.closeLastGroup.emitResultB64d.setB64d .reset) := by
  cases i with
  | b64dNop =>
    cases h
    exact .inl ⟨rfl, rfl, rfl⟩
  | b64dData a =>
    cases h
    cases hf : s.b64d.d_fail with
    | true => exact .inl (by simp [B64D.stopped, hf, KeepsB64d])
    | false => exact .inr (.inl ⟨a, rfl, rfl, by simp [B64D.stopped, hf]⟩)
  | b64dEnd =>
    cases h
    exact .inr (.inr ⟨rfl, rfl⟩)
  | _ => exact .inl (.of_unit_ne h (by simp [Instr.unit]))

/-- What a command can do to HEXD: nothing, while RUNNING the second or the first symbol of a pair, or
END (43_hex_decoder.md R167 to R169; 10_state.md R35). -/
theorem exec_hexd_cases {i : Instr} {s t : State} (h : exec i s = .next t) :
    KeepsHexd s t ∨
    (∃ a, i = .hexdData a ∧ s.hexd.h_fail = false ∧
      (s.hexd.h_phase = true ∧ t = s.completePair (ascNib a) ∨
        s.hexd.h_phase = false ∧ t = s.setHexd (s.hexd.hold (ascNib a)))) ∨
    (i = .hexdEnd ∧ t = (s.setHexd s.hexd.judgeEnd).emitResultHexd.setHexd .reset) := by
  cases i with
  | hexdNop =>
    cases h
    exact .inl ⟨rfl, rfl, rfl⟩
  | hexdData a =>
    cases h
    cases hf : s.hexd.h_fail with
    | true => exact .inl (by simp [HEXD.stopped, hf, KeepsHexd])
    | false =>
      refine .inr (.inl ⟨a, rfl, rfl, ?_⟩)
      cases hp : s.hexd.h_phase <;> simp [HEXD.stopped, hf]
  | hexdEnd =>
    cases h
    exact .inr (.inr ⟨rfl, rfl⟩)
  | _ => exact .inl (.of_unit_ne h (by simp [Instr.unit]))

end Sys2Proof.Machine

/-! PROOFS. O47, O48: the registers' invariant (10_state.md R24, R26; 00_scope.md R5). -/

namespace Sys2Proof.Machine

theorem B64D.inv_reset : B64D.reset.Inv := by decide

theorem HEXD.inv_reset : HEXD.reset.Inv := by decide

/-- Settles O47: both decoders' registers by their values, and no stream holds anything. -/
theorem invHoldsAtReset : Obligations.InvHoldsAtReset := by
  unfold Obligations.InvHoldsAtReset
  refine ⟨⟨by decide, B64D.inv_reset, HEXD.inv_reset⟩, ?_⟩
  simp [State.StreamsInv, State.reset, Sinks.empty]

/-! ### B64D -/

/-- A group that closes while RUNNING leaves the group registers at zero and a flag that agrees with
its cause (41_b64_decoder.md R127). -/
theorem B64D.inv_closeGroup {r : B64D} (h : r.Inv) (hf : r.d_fail = false) (v : Nat) (bad : Bool) :
    (r.closeGroup v bad).Inv := by
  obtain ⟨-, -, hfc, -, -⟩ := h
  obtain ⟨hacc, hpos, hnv⟩ := closeGroup_regs r v bad
  rcases closeGroup_status r v bad with ⟨-, hf', hc⟩ | ⟨c, hg, hf', hc⟩
  · simp [B64D.Inv, hacc, hpos, hnv, hf', hc, hf, hfc.mp hf]
  · rcases groupError_cases v bad with ⟨hg', -, -⟩ | ⟨hg', -⟩ | ⟨hg', -, -⟩
    · simp [hg'] at hg
    · simp [B64D.Inv, hacc, hpos, hnv, hf', hc, Option.some.inj (hg.symm.trans hg')]
    · simp [B64D.Inv, hacc, hpos, hnv, hf', hc, Option.some.inj (hg.symm.trans hg')]

/-- An accumulated symbol either closes the group or leaves one symbol more in it, with room in each
of its registers (41_b64_decoder.md R133). -/
theorem inv_accumulate {s : State} (h : s.b64d.Inv) (hf : s.b64d.d_fail = false) {acc : Group} {v : Nat}
    (hacc : s.b64d.d_pos.toNat < 4 → acc.toNat < 2 ^ (6 * (s.b64d.d_pos.toNat + 1)))
    (hv : v ≤ s.b64d.d_pos.toNat + 1) : (s.accumulate acc v).b64d.Inv := by
  rcases accumulate_cases acc v s with ⟨-, he⟩ | ⟨hp, he⟩ <;> rw [he]
  · exact B64D.inv_closeGroup h hf v false
  · obtain ⟨-, -, hfc, ho, -⟩ := h
    have hpos : (s.b64d.d_pos + 1#2).toNat = s.b64d.d_pos.toNat + 1 := by bv_omega
    have hlt := (s.b64d.d_pos + 1#2).isLt
    have hnv : (BitVec.ofNat 2 v).toNat = v := by
      rw [BitVec.toNat_ofNat, Nat.mod_eq_of_lt (by omega)]
    refine ⟨?_, ?_, hfc, ho, ?_⟩
    · simpa only [State.setB64d_b64d, hnv, hpos] using hv
    · simpa only [State.setB64d_b64d, hpos] using hacc s.b64d.d_pos.isLt
    · simp [hf]

/-- Padding shifts the accumulator as the digit zero does (41_b64_decoder.md R123). -/
theorem accumAlpha_zero (acc : Group) : accumAlpha acc 0#6 = accumPad acc := by
  simp [accumAlpha, accumPad]

theorem accumPad_lt (acc : Group) (k : Nat) (hk : k < 4) (h : acc.toNat < 2 ^ (6 * k)) :
    (accumPad acc).toNat < 2 ^ (6 * (k + 1)) :=
  accumAlpha_zero acc ▸ accumAlpha_lt acc 0#6 k hk h

theorem inv_b64dSymbol {s : State} (h : s.b64d.Inv) (hf : s.b64d.d_fail = false) (c : Class64) :
    (s.b64dSymbol c).b64d.Inv := by
  obtain ⟨hnv, hacc, -⟩ := id h
  cases c with
  | ws => exact h
  | invalid => exact B64D.inv_closeGroup h hf _ true
  | pad => exact inv_accumulate h hf (accumPad_lt _ _ · hacc) (by omega)
  | alpha x => exact inv_accumulate h hf (accumAlpha_lt _ x _ · hacc) (by omega)

theorem exec_keeps_b64d_inv {i : Instr} {s t : State} (h : s.b64d.Inv) (he : exec i s = .next t) :
    t.b64d.Inv := by
  rcases exec_b64d_cases he with ⟨hr, -⟩ | ⟨a, -, hf, rfl⟩ | ⟨-, rfl⟩
  · rwa [hr]
  · exact inv_b64dSymbol h hf (class64 a)
  · exact B64D.inv_reset

/-! ### HEXD -/

theorem inv_completePair {s : State} (h : s.hexd.Inv) (q : Option Nibble) :
    (s.completePair q).hexd.Inv := by
  obtain ⟨hfc, hi, -, hhi⟩ := h
  rcases completePair_cases q s with ⟨n, -, -, he⟩ | ⟨-, he⟩ <;> rw [he]
  · exact ⟨hfc, hi, fun _ => rfl, hhi⟩
  · exact ⟨by simp, by simp, fun _ => rfl, hhi⟩

/-- The first symbol of a pair is held with a zero nibble when it is no digit (43_hex_decoder.md R168). -/
theorem HEXD.inv_hold {r : HEXD} (h : r.Inv) (hf : r.h_fail = false) (q : Option Nibble) :
    (r.hold q).Inv := by
  obtain ⟨hfc, hi, -, -⟩ := h
  cases q with
  | none => exact ⟨hfc, hi, by simp [HEXD.hold, hf], fun _ => rfl⟩
  | some n => exact ⟨hfc, hi, by simp [HEXD.hold, hf], by simp [HEXD.hold]⟩

theorem exec_keeps_hexd_inv {i : Instr} {s t : State} (h : s.hexd.Inv) (he : exec i s = .next t) :
    t.hexd.Inv := by
  rcases exec_hexd_cases he with ⟨hr, -⟩ | ⟨a, -, hf, ⟨-, rfl⟩ | ⟨-, rfl⟩⟩ | ⟨-, rfl⟩
  · rwa [hr]
  · exact inv_completePair h (ascNib a)
  · exact HEXD.inv_hold h hf (ascNib a)
  · exact HEXD.inv_reset

/-- Settles O48: a step idles, resets, or executes a command, and a command keeps each decoder's part. -/
theorem stepKeepsInv : Obligations.StepKeepsInv := by
  unfold Obligations.StepKeepsInv
  intro s t h hs
  obtain ⟨hw, hd, hh⟩ := id h
  rcases step_cases hs with rfl | ⟨rest, rfl⟩ | ⟨i, rest, he⟩
  · exact h
  · exact ⟨hw, B64D.inv_reset, HEXD.inv_reset⟩
  · have hp : t.params = s.params := (updatesOnly_of_exec_eq he).params_eq
    exact ⟨hp ▸ hw, exec_keeps_b64d_inv (s := s.setInput rest) hd he,
      exec_keeps_hexd_inv (s := s.setInput rest) hh he⟩

end Sys2Proof.Machine

/-! PROOFS. O30: the packed record (10_state.md R30; 30_encoding.md R92). -/

namespace Sys2Proof.Machine

/-- The fields of the packed record do not overlap, so that it is their sum. -/
theorem pack_eq (r : ResultRecord) :
    r.pack = r.fail.toNat + 2 * r.cause.code.toNat + 8 * r.count := by
  have hc := r.cause.code.isLt
  have hf := r.fail.toNat_lt
  have hlow : r.fail.toNat ||| r.cause.code.toNat <<< 1 = 2 * r.cause.code.toNat + r.fail.toNat := by
    rw [Nat.or_comm, Nat.shiftLeft_eq, Nat.mul_comm]
    exact (Nat.two_pow_add_eq_or_of_lt (i := 1) hf _).symm
  calc r.pack = (r.fail.toNat ||| r.cause.code.toNat <<< 1) ||| r.count <<< 3 := by
        cases h : r.fail <;> simp [ResultRecord.pack, h]
    _ = 2 ^ 3 * r.count ||| (2 * r.cause.code.toNat + r.fail.toNat) := by
        rw [hlow, Nat.or_comm, Nat.shiftLeft_eq, Nat.mul_comm]
    _ = 2 ^ 3 * r.count + (2 * r.cause.code.toNat + r.fail.toNat) :=
        (Nat.two_pow_add_eq_or_of_lt (by omega) _).symm
    _ = r.fail.toNat + 2 * r.cause.code.toNat + 8 * r.count := by omega

/-- The layout as bits is the same sum, when the count fits its width. -/
theorem packBits_toNat (r : ResultRecord) (w : Nat) (h : r.count < 2 ^ w) :
    (r.packBits w).toNat = r.fail.toNat + 2 * r.cause.code.toNat + 8 * r.count := by
  rw [ResultRecord.packBits, toNat_append, toNat_append, BitVec.toNat_ofNat, Nat.mod_eq_of_lt h,
    BitVec.toNat_ofBool]
  omega

/-- Settles O30: both forms of the packed record are the sum of its fields, each in its place. -/
theorem packedRecordKeepsItsFields : Obligations.PackedRecordKeepsItsFields := by
  unfold Obligations.PackedRecordKeepsItsFields
  intro r w
  have hc := r.cause.code.isLt
  have hf := r.fail.toNat_lt
  have hfail : (if r.fail then 1 else 0) = r.fail.toNat := by cases r.fail <;> rfl
  rw [hfail, pack_eq]
  exact ⟨rfl, by omega, by omega, by omega, packBits_toNat r w⟩

end Sys2Proof.Machine

/-! PROOFS. O55: a decoder that has failed (10_state.md R29, R35; 60_exceptions.md R191). -/

namespace Sys2Proof.Machine

theorem KeepsB64d.trans {s t u : State} (h : KeepsB64d s t) (h' : KeepsB64d t u) : KeepsB64d s u := by
  obtain ⟨hr, ho, hres⟩ := h
  obtain ⟨hr', ho', hres'⟩ := h'
  exact ⟨hr'.trans hr, ho'.trans ho, hres'.trans hres⟩

theorem KeepsHexd.trans {s t u : State} (h : KeepsHexd s t) (h' : KeepsHexd t u) : KeepsHexd s u := by
  obtain ⟨hr, ho, hres⟩ := h
  obtain ⟨hr', ho', hres'⟩ := h'
  exact ⟨hr'.trans hr, ho'.trans ho, hres'.trans hres⟩

theorem exec_keeps_failed_b64d {i : Instr} {s t : State} (hf : s.b64d.d_fail = true)
    (hi : i ≠ .b64dEnd) (h : exec i s = .next t) : KeepsB64d s t := by
  rcases exec_b64d_cases h with hk | ⟨a, -, hr, -⟩ | ⟨he, -⟩
  · exact hk
  · simp [hf] at hr
  · exact absurd he hi

theorem exec_keeps_failed_hexd {i : Instr} {s t : State} (hf : s.hexd.h_fail = true)
    (hi : i ≠ .hexdEnd) (h : exec i s = .next t) : KeepsHexd s t := by
  rcases exec_hexd_cases h with hk | ⟨a, -, hr, -⟩ | ⟨he, -⟩
  · exact hk
  · simp [hf] at hr
  · exact absurd he hi

/-- Settles O55: a failure that is kept is there for the next command, and none of the run is an END. -/
theorem failureIsFrozenUntilEnd : Obligations.FailureIsFrozenUntilEnd := by
  unfold Obligations.FailureIsFrozenUntilEnd
  intro is s t h
  refine ⟨fun hf hn => ?_, fun hf hn => ?_⟩
  · refine runCommands_invariant (P := KeepsB64d s) (fun i hi u v hk hv => ?_) ⟨rfl, rfl, rfl⟩ h
    have hfu : u.b64d.d_fail = true := hk.1 ▸ hf
    exact hk.trans (exec_keeps_failed_b64d hfu (ne_of_mem_of_not_mem hi hn) hv)
  · refine runCommands_invariant (P := KeepsHexd s) (fun i hi u v hk hv => ?_) ⟨rfl, rfl, rfl⟩ h
    have hfu : u.hexd.h_fail = true := hk.1 ▸ hf
    exact hk.trans (exec_keeps_failed_hexd hfu (ne_of_mem_of_not_mem hi hn) hv)

end Sys2Proof.Machine

/-! PROOFS. O58: the counters of the decoders (10_state.md R24, R26). -/

namespace Sys2Proof.Machine

/-- `d_count` grows by the number of symbols B64D emits. -/
def CountsB64d (s t : State) : Prop :=
  t.b64d.d_count + s.sinks.b64d_out.length = s.b64d.d_count + t.sinks.b64d_out.length

/-- `h_count` grows by the number of symbols HEXD emits. -/
def CountsHexd (s t : State) : Prop :=
  t.hexd.h_count + s.sinks.hexd_out.length = s.hexd.h_count + t.sinks.hexd_out.length

theorem CountsB64d.trans {s t u : State} (h : CountsB64d s t) (h' : CountsB64d t u) : CountsB64d s u := by
  unfold CountsB64d at *
  omega

theorem CountsHexd.trans {s t u : State} (h : CountsHexd s t) (h' : CountsHexd t u) : CountsHexd s u := by
  unfold CountsHexd at *
  omega

theorem KeepsB64d.counts {s t : State} (h : KeepsB64d s t) : CountsB64d s t := by
  obtain ⟨hr, ho, -⟩ := h
  rw [CountsB64d, hr, ho]

theorem KeepsHexd.counts {s t : State} (h : KeepsHexd s t) : CountsHexd s t := by
  obtain ⟨hr, ho, -⟩ := h
  rw [CountsHexd, hr, ho]

/-- A group that closes counts the bytes it emits, in error or not (41_b64_decoder.md R127). -/
theorem closeGroup_counts (acc : Group) (k v : Nat) (bad : Bool) (s : State) :
    CountsB64d s (s.closeGroup acc k v bad) := by
  simp only [CountsB64d, State.closeGroup_b64d, State.closeGroup_b64d_out, closeGroup_count,
    List.length_append, extractBytes_length]
  omega

theorem b64dSymbol_counts (c : Class64) (s : State) : CountsB64d s (s.b64dSymbol c) := by
  rcases b64dSymbol_cases c s with ⟨-, h⟩ | ⟨acc, k, v, bad, -, h⟩ | ⟨acc, v, -, -, h⟩ <;> rw [h]
  · rfl
  · exact closeGroup_counts acc k v bad s
  · rfl

theorem completePair_counts (q : Option Nibble) (s : State) : CountsHexd s (s.completePair q) := by
  rcases completePair_cases q s with ⟨n, -, -, h⟩ | ⟨-, h⟩ <;> rw [h]
  · simp only [CountsHexd, State.setHexd_hexd, State.setHexd_hexd_out, State.emitHexd_hexd_out,
      List.length_append, List.length_singleton]
    omega
  · rfl

theorem hold_counts (q : Option Nibble) (s : State) : CountsHexd s (s.setHexd (s.hexd.hold q)) := by
  cases q <;> rfl

theorem exec_countsB64d {i : Instr} (hi : i ≠ .b64dEnd) {s t : State} (h : exec i s = .next t) :
    CountsB64d s t := by
  rcases exec_b64d_cases h with hk | ⟨a, -, -, rfl⟩ | ⟨he, -⟩
  · exact hk.counts
  · exact b64dSymbol_counts (class64 a) s
  · exact absurd he hi

theorem exec_countsHexd {i : Instr} (hi : i ≠ .hexdEnd) {s t : State} (h : exec i s = .next t) :
    CountsHexd s t := by
  rcases exec_hexd_cases h with hk | ⟨a, -, -, ⟨-, rfl⟩ | ⟨-, rfl⟩⟩ | ⟨he, -⟩
  · exact hk.counts
  · exact completePair_counts (ascNib a) s
  · exact hold_counts (ascNib a) s
  · exact absurd he hi

/-- Settles O58: every command but a decoder's END counts what it emits, and growth adds up. -/
theorem countersCountTheEmittedSymbols : Obligations.CountersCountTheEmittedSymbols := by
  unfold Obligations.CountersCountTheEmittedSymbols
  intro is s
  obtain ⟨t, ht⟩ := runCommands_isNext is s
  refine ⟨t, ht, fun hn => ?_, fun hn => ?_⟩
  · exact runCommands_invariant (P := CountsB64d s) (fun i hi _ _ hs he =>
      hs.trans (exec_countsB64d (ne_of_mem_of_not_mem hi hn) he)) rfl ht
  · exact runCommands_invariant (P := CountsHexd s) (fun i hi _ _ hs he =>
      hs.trans (exec_countsHexd (ne_of_mem_of_not_mem hi hn) he)) rfl ht

end Sys2Proof.Machine

/-! PROOFS. O57: stale holding registers (10_state.md R22, R26). -/

namespace Sys2Proof.Machine

/-- The registers of B64E agree, except that a byte the open group has not written may differ
(10_state.md R22). -/
def B64E.SameLive (r r' : B64E) : Prop :=
  r'.e_phase = r.e_phase ∧ (r.e_phase ≠ 0 → r'.e_b0 = r.e_b0) ∧ (r.e_phase = 2 → r'.e_b1 = r.e_b1)

/-- The registers of HEXD agree, except that outside a pair the held symbol may differ (10_state.md R26). -/
def HEXD.SameLive (r r' : HEXD) : Prop :=
  r'.h_phase = r.h_phase ∧ r'.h_count = r.h_count ∧ r'.h_fail = r.h_fail ∧ r'.h_cause = r.h_cause ∧
    (r.h_phase = true → r'.h_hi_ok = r.h_hi_ok ∧ r'.h_hi = r.h_hi)

/-- The second state is the first, except for stale holding registers. -/
inductive SameButStale (s : State) : State → Prop where
  | intro (e : B64E) (q : HEXD) (he : s.b64e.SameLive e) (hq : s.hexd.SameLive q) :
      SameButStale s ((s.setB64e e).setHexd q)

theorem B64E.SameLive.refl (r : B64E) : r.SameLive r := ⟨rfl, fun _ => rfl, fun _ => rfl⟩

theorem HEXD.SameLive.refl (r : HEXD) : r.SameLive r := ⟨rfl, rfl, rfl, rfl, fun _ => ⟨rfl, rfl⟩⟩

/-- Within a pair every register of HEXD is live. -/
theorem HEXD.SameLive.eq_of_phase {r r' : HEXD} (h : r.SameLive r') (hp : r.h_phase = true) : r' = r := by
  obtain ⟨hph, hn, hf, hc, hlive⟩ := h
  obtain ⟨hok, hhi⟩ := hlive hp
  cases r
  cases r'
  simp_all

/-- The first symbol of a pair overwrites what was held. -/
theorem HEXD.SameLive.hold {r r' : HEXD} (h : r.SameLive r') (q : Option Nibble) :
    (r.hold q).SameLive (r'.hold q) := by
  obtain ⟨-, hn, hf, hc, -⟩ := h
  cases q <;> exact ⟨rfl, hn, hf, hc, fun _ => ⟨rfl, rfl⟩⟩

/-- END judges by the flag and the phase alone (43_hex_decoder.md R169). -/
theorem HEXD.SameLive.judgeEnd {r r' : HEXD} (h : r.SameLive r') : r.judgeEnd.SameLive r'.judgeEnd := by
  obtain ⟨hp, hn, hf, hc, hlive⟩ := id h
  unfold HEXD.judgeEnd HEXD.stopped
  rw [hp, hf]
  split
  · exact ⟨hp, hn, rfl, rfl, hlive⟩
  · exact h

namespace SameButStale

variable {s s' : State}

theorem b64e (h : SameButStale s s') : s.b64e.SameLive s'.b64e := by
  cases h with | intro e q he hq => exact he

theorem hexd (h : SameButStale s s') : s.hexd.SameLive s'.hexd := by
  cases h with | intro e q he hq => exact hq

theorem b64d_eq (h : SameButStale s s') : s'.b64d = s.b64d := by
  cases h with | intro e q he hq => rfl

theorem sinks_eq (h : SameButStale s s') : s'.sinks = s.sinks := by
  cases h with | intro e q he hq => rfl

/-! ### The updates of State keep it -/

theorem setB64e (h : SameButStale s s') {r r' : B64E} (hr : r.SameLive r') :
    SameButStale (s.setB64e r) (s'.setB64e r') := by
  cases h with | intro e q he hq => exact .intro r' q hr hq

theorem setHexd (h : SameButStale s s') {r r' : HEXD} (hr : r.SameLive r') :
    SameButStale (s.setHexd r) (s'.setHexd r') := by
  cases h with | intro e q he hq => exact .intro e r' he hr

theorem setB64d (h : SameButStale s s') (r : B64D) : SameButStale (s.setB64d r) (s'.setB64d r) := by
  cases h with | intro e q he hq => exact .intro e q he hq

theorem emitB64e (h : SameButStale s s') (vs : List Sym) :
    SameButStale (s.emitB64e vs) (s'.emitB64e vs) := by
  cases h with | intro e q he hq => exact .intro e q he hq

theorem emitHexe (h : SameButStale s s') (vs : List Sym) :
    SameButStale (s.emitHexe vs) (s'.emitHexe vs) := by
  cases h with | intro e q he hq => exact .intro e q he hq

theorem emitHexd (h : SameButStale s s') (vs : List Sym) :
    SameButStale (s.emitHexd vs) (s'.emitHexd vs) := by
  cases h with | intro e q he hq => exact .intro e q he hq

theorem emitResultB64d (h : SameButStale s s') :
    SameButStale s.emitResultB64d s'.emitResultB64d := by
  cases h with | intro e q he hq => exact .intro e q he hq

/-- No field of HEXD's record is a holding register. -/
theorem emitResultHexd (h : SameButStale s s') :
    SameButStale s.emitResultHexd s'.emitResultHexd := by
  cases h with
  | intro e q he hq =>
    obtain ⟨-, hn, hf, hc, -⟩ := id hq
    have heq : ((s.setB64e e).setHexd q).emitResultHexd = (s.emitResultHexd.setB64e e).setHexd q := by
      simp only [State.emitResultHexd, State.setHexd, State.setB64e, hn, hf, hc]
    exact heq ▸ .intro e q he hq

/-! ### The shared operations and the commands keep it -/

theorem closeGroup (h : SameButStale s s') (acc : Group) (k v : Nat) (bad : Bool) :
    SameButStale (s.closeGroup acc k v bad) (s'.closeGroup acc k v bad) := by
  cases h with | intro e q he hq => exact .intro e q he hq

theorem accumulate (h : SameButStale s s') (acc : Group) (v : Nat) :
    SameButStale (s.accumulate acc v) (s'.accumulate acc v) := by
  unfold State.accumulate
  rw [h.b64d_eq]
  split
  · exact h.closeGroup acc 4 v false
  · exact h.setB64d _

theorem b64dSymbol (h : SameButStale s s') (c : Class64) :
    SameButStale (s.b64dSymbol c) (s'.b64dSymbol c) := by
  unfold State.b64dSymbol
  rw [h.b64d_eq]
  cases c with
  | ws => exact h
  | invalid => exact h.closeGroup _ _ _ true
  | pad => exact h.accumulate _ _
  | alpha x => exact h.accumulate _ _

theorem closeLastGroup (h : SameButStale s s') : SameButStale s.closeLastGroup s'.closeLastGroup := by
  unfold State.closeLastGroup
  rw [h.b64d_eq]
  split
  · exact h.closeGroup _ _ _ false
  · exact h

theorem completePair (h : SameButStale s s') (hp : s.hexd.h_phase = true) (q : Option Nibble) :
    SameButStale (s.completePair q) (s'.completePair q) := by
  unfold State.completePair
  rw [h.hexd.eq_of_phase hp]
  split
  · exact (h.emitHexd _).setHexd (.refl _)
  · exact h.setHexd (.refl _)
  · exact h.setHexd (.refl _)

/-- Every command reads live registers only (10_state.md R22, R26). -/
theorem exec_next (h : SameButStale s s') (i : Instr) :
    ∃ t t', exec i s = .next t ∧ exec i s' = .next t' ∧ SameButStale t t' := by
  cases i with
  | b64eNop | b64dNop | hexeNop | hexeEnd | hexdNop => exact ⟨s, s', rfl, rfl, h⟩
  | b64eData a =>
    refine ⟨_, _, rfl, rfl, ?_⟩
    obtain ⟨hp, h0, h1⟩ := h.b64e
    rw [hp]
    split
    · exact h.setB64e ⟨rfl, fun _ => rfl, nofun⟩
    · next hph => exact h.setB64e ⟨rfl, fun _ => h0 (by simp [hph]), fun _ => rfl⟩
    · next hph =>
      rw [h0 (by simp [hph]), h1 hph]
      exact (h.emitB64e _).setB64e ⟨rfl, fun hne => absurd rfl hne, nofun⟩
  | b64eEnd =>
    refine ⟨_, _, rfl, rfl, .setB64e ?_ (.refl _)⟩
    obtain ⟨hp, h0, h1⟩ := h.b64e
    rw [hp]
    split
    · exact h
    · next hph =>
      rw [h0 (by simp [hph])]
      exact h.emitB64e _
    · next hph =>
      rw [h0 (by simp [hph]), h1 hph]
      exact h.emitB64e _
  | b64dData a =>
    refine ⟨_, _, rfl, rfl, ?_⟩
    rw [h.b64d_eq]
    split
    · exact h
    · exact h.b64dSymbol (class64 a)
  | b64dEnd => exact ⟨_, _, rfl, rfl, h.closeLastGroup.emitResultB64d.setB64d _⟩
  | hexeData a => exact ⟨_, _, rfl, rfl, h.emitHexe _⟩
  | hexdData a =>
    refine ⟨_, _, rfl, rfl, ?_⟩
    obtain ⟨hp, -, hf, -, -⟩ := h.hexd
    unfold HEXD.stopped
    rw [hp, hf]
    split
    · exact h
    · split
      · next hph => exact h.completePair hph (ascNib a)
      · exact h.setHexd (h.hexd.hold (ascNib a))
  | hexdEnd =>
    exact ⟨_, _, rfl, rfl, ((h.setHexd h.hexd.judgeEnd).emitResultHexd).setHexd (.refl _)⟩

theorem runCommands_next (h : SameButStale s s') (is : List Instr) :
    ∃ t t', runCommands is s = .next t ∧ runCommands is s' = .next t' ∧ SameButStale t t' := by
  induction is generalizing s s' with
  | nil => exact ⟨s, s', rfl, rfl, h⟩
  | cons i is ih =>
    obtain ⟨u, u', hu, hu', hs⟩ := h.exec_next i
    rw [runCommands_cons i is s u hu, runCommands_cons i is s' u' hu']
    exact ih hs

end SameButStale

/-- Settles O57: states that agree but for stale holding registers do so after every run. -/
theorem staleHoldingRegistersAreNeverRead : Obligations.StaleHoldingRegistersAreNeverRead := by
  unfold Obligations.StaleHoldingRegistersAreNeverRead
  intro is s x y ok n he hh
  have h : SameButStale s ((s.setB64e { s.b64e with e_b0 := x, e_b1 := y }).setHexd
      { s.hexd with h_hi_ok := ok, h_hi := n }) :=
    .intro _ _ ⟨rfl, by simp [he], by simp [he]⟩ ⟨rfl, rfl, rfl, rfl, by simp [hh]⟩
  obtain ⟨t, t', ht, ht', hs⟩ := h.runCommands_next is
  obtain ⟨hep, -⟩ := hs.b64e
  obtain ⟨hph, hn, hf, hc, -⟩ := hs.hexd
  exact ⟨t, t', ht, ht', hs.sinks_eq, hs.b64d_eq, hep, hph, hn, hf, hc⟩

end Sys2Proof.Machine

/-! PROOFS. O25: the hex digits (20_memory.md R54, R55). -/

namespace Sys2Proof.Machine

theorem nibAsc_toNat : ∀ n : Nibble,
    (nibAsc n).toNat = if n.toNat ≤ 9 then 0x30 + n.toNat else 0x61 + (n.toNat - 10) := by decide

/-- A digit's place in its range of codes is its value (20_memory.md R55). -/
theorem ascNib_eq_some_iff (c : Sym) (n : Nibble) : ascNib c = some n ↔
    0x30 ≤ c.toNat ∧ c.toNat ≤ 0x39 ∧ n.toNat = c.toNat - 0x30 ∨
    0x41 ≤ c.toNat ∧ c.toNat ≤ 0x46 ∧ n.toNat = c.toNat - 0x41 + 10 ∨
    0x61 ≤ c.toNat ∧ c.toNat ≤ 0x66 ∧ n.toNat = c.toNat - 0x61 + 10 := by
  unfold ascNib
  repeat' split
  all_goals
    simp only [Option.some.injEq, reduceCtorEq, false_iff, ← BitVec.toNat_inj, BitVec.toNat_ofNat]
    omega

/-- Settles O25: the codes and the values of the three ranges of digits, side by side. -/
theorem hexClassifierInvertsTheDigits : Obligations.HexClassifierInvertsTheDigits := by
  unfold Obligations.HexClassifierInvertsTheDigits
  intro c n
  rw [ascNib_eq_some_iff, ← BitVec.toNat_inj, nibAsc_toNat]
  split <;> omega

end Sys2Proof.Machine

/-! PROOFS. O53: streams are append-only (20_memory.md R59, R62; 70_reset_and_hazards.md R201). -/

namespace Sys2Proof.Machine

/-- Each stream of the second continues the one of the first. -/
structure Sinks.ContinuedBy (a b : Sinks) : Prop where
  b64e_out : a.b64e_out <+: b.b64e_out
  b64d_out : a.b64d_out <+: b.b64d_out
  hexe_out : a.hexe_out <+: b.hexe_out
  hexd_out : a.hexd_out <+: b.hexd_out
  b64d_res : a.b64d_res <+: b.b64d_res
  hexd_res : a.hexd_res <+: b.hexd_res

theorem Sinks.ContinuedBy.refl (a : Sinks) : a.ContinuedBy a := by
  constructor <;> exact List.prefix_rfl

/-- Registers written leave the streams; what is emitted or reported joins the end of one of them. -/
theorem UpdatesOnly.sinks_continuedBy {u : UnitId} {s t : State} (h : UpdatesOnly u s t) :
    s.sinks.ContinuedBy t.sinks := by
  induction h with
  | refl => exact .refl _
  | setB64e _ _ ih | setB64d _ _ ih | setHexd _ _ ih => exact ih
  | emitB64e vs _ ih => exact { ih with b64e_out := ih.b64e_out.trans (List.prefix_append _ vs) }
  | emitB64d vs _ ih => exact { ih with b64d_out := ih.b64d_out.trans (List.prefix_append _ vs) }
  | emitHexe vs _ ih => exact { ih with hexe_out := ih.hexe_out.trans (List.prefix_append _ vs) }
  | emitHexd vs _ ih => exact { ih with hexd_out := ih.hexd_out.trans (List.prefix_append _ vs) }
  | emitResultB64d _ ih => exact { ih with b64d_res := ih.b64d_res.trans (List.prefix_append _ _) }
  | emitResultHexd _ ih => exact { ih with hexd_res := ih.hexd_res.trans (List.prefix_append _ _) }

theorem step_sinks_continuedBy {s t : State} (h : step s = .next t) : s.sinks.ContinuedBy t.sinks := by
  rcases step_cases h with rfl | ⟨rest, rfl⟩ | ⟨i, rest, he⟩
  · exact .refl _
  · exact .refl s.sinks
  · exact (updatesOnly_of_exec_eq he).sinks_continuedBy

/-- Settles O53: a step idles, resets, or executes a command, and none of them takes from a stream. -/
theorem streamsOnlyGrow : Obligations.StreamsOnlyGrow := by
  unfold Obligations.StreamsOnlyGrow
  intro s t h
  obtain ⟨he, hd, hx, hh, hdr, hhr⟩ := step_sinks_continuedBy h
  exact ⟨he, hd, hx, hh, hdr, hhr⟩

end Sys2Proof.Machine

/-! PROOFS. O54: the most a command emits (20_memory.md R61). -/

namespace Sys2Proof.Machine

/-- B64E emits whole groups of four characters, and only at DATA and END (40_b64_encoder.md R105, R106). -/
theorem exec_b64e_out_cases {i : Instr} {s t : State} (h : exec i s = .next t) :
    t.sinks.b64e_out = s.sinks.b64e_out ∨
    ((∃ a, i = .b64eData a) ∨ i = .b64eEnd) ∧
      ∃ vs : List Sym, vs.length = 4 ∧ t.sinks.b64e_out = s.sinks.b64e_out ++ vs := by
  cases i with
  | b64eNop =>
    cases h
    exact .inl rfl
  | b64eData a =>
    cases h
    split
    · exact .inl rfl
    · exact .inl rfl
    · exact .inr ⟨.inl ⟨a, rfl⟩, chars24 _ _ _, rfl, rfl⟩
  | b64eEnd =>
    cases h
    rw [State.setB64e_b64e_out]
    split
    · exact .inl rfl
    · exact .inr ⟨.inr rfl, chars8 _, rfl, rfl⟩
    · exact .inr ⟨.inr rfl, chars16 _ _, rfl, rfl⟩
  | _ => exact .inl ((updatesOnly_of_exec_eq h).b64e_eq (by simp [Instr.unit])).2

theorem closeGroup_out_length (acc : Group) (k v : Nat) (bad : Bool) (s : State) :
    (s.closeGroup acc k v bad).sinks.b64d_out.length = s.sinks.b64d_out.length + byteCount v := by
  rw [State.closeGroup_b64d_out, List.length_append, extractBytes_length]

theorem b64dSymbol_out_length_le (c : Class64) (s : State) :
    (s.b64dSymbol c).sinks.b64d_out.length ≤ s.sinks.b64d_out.length + 3 := by
  rcases b64dSymbol_cases c s with ⟨-, h⟩ | ⟨acc, k, v, bad, -, h⟩ | ⟨acc, v, -, -, h⟩ <;> rw [h]
  · exact Nat.le_add_right _ 3
  · rw [closeGroup_out_length]
    exact Nat.add_le_add_left (byteCount_le_three v) _
  · exact Nat.le_add_right _ 3

/-- The last group has at most three valid symbols, which yield two bytes (41_b64_decoder.md R124). -/
theorem closeLastGroup_out_length_le (s : State) :
    s.closeLastGroup.sinks.b64d_out.length ≤ s.sinks.b64d_out.length + 2 := by
  rcases closeLastGroup_cases s with ⟨-, -, h⟩ | ⟨-, h⟩ <;> rw [h]
  · have hv := s.b64d.d_nvalid.isLt
    rw [closeGroup_out_length, byteCount_eq _ (by omega)]
    omega
  · exact Nat.le_add_right _ 2

theorem b64dSymbol_b64d_res (c : Class64) (s : State) :
    (s.b64dSymbol c).sinks.b64d_res = s.sinks.b64d_res := by
  rcases b64dSymbol_cases c s with ⟨-, h⟩ | ⟨acc, k, v, bad, -, h⟩ | ⟨acc, v, -, -, h⟩ <;> rw [h] <;> rfl

theorem closeLastGroup_b64d_res (s : State) :
    s.closeLastGroup.sinks.b64d_res = s.sinks.b64d_res := by
  rcases closeLastGroup_cases s with ⟨-, -, h⟩ | ⟨-, h⟩ <;> rw [h]
  rfl

theorem completePair_out_length_le (q : Option Nibble) (s : State) :
    (s.completePair q).sinks.hexd_out.length ≤ s.sinks.hexd_out.length + 1 := by
  rcases completePair_cases q s with ⟨n, -, -, h⟩ | ⟨-, h⟩ <;> rw [h]
  · rw [State.setHexd_hexd_out, State.emitHexd_hexd_out, List.length_append, List.length_singleton]
  · exact Nat.le_add_right _ 1

theorem completePair_hexd_res (q : Option Nibble) (s : State) :
    (s.completePair q).sinks.hexd_res = s.sinks.hexd_res := by
  rcases completePair_cases q s with ⟨n, -, -, h⟩ | ⟨-, h⟩ <;> (rw [h]; rfl)

/-- A result is reported by B64D's END and by nothing else (20_memory.md R61; 10_state.md R30). -/
theorem exec_b64d_res_length {i : Instr} {s t : State} (h : exec i s = .next t) :
    t.sinks.b64d_res.length = s.sinks.b64d_res.length + (if i = .b64dEnd then 1 else 0) := by
  by_cases hi : i = .b64dEnd
  · subst hi
    cases h
    simp [closeLastGroup_b64d_res]
  · rw [if_neg hi, Nat.add_zero]
    rcases exec_b64d_cases h with ⟨-, -, hres⟩ | ⟨a, -, -, rfl⟩ | ⟨he, -⟩
    · rw [hres]
    · rw [b64dSymbol_b64d_res]
    · exact absurd he hi

/-- A result is reported by HEXD's END and by nothing else (20_memory.md R61; 10_state.md R30). -/
theorem exec_hexd_res_length {i : Instr} {s t : State} (h : exec i s = .next t) :
    t.sinks.hexd_res.length = s.sinks.hexd_res.length + (if i = .hexdEnd then 1 else 0) := by
  by_cases hi : i = .hexdEnd
  · subst hi
    cases h
    simp
  · rw [if_neg hi, Nat.add_zero]
    rcases exec_hexd_cases h with ⟨-, -, hres⟩ | ⟨a, -, -, ⟨-, rfl⟩ | ⟨-, rfl⟩⟩ | ⟨he, -⟩
    · rw [hres]
    · rw [completePair_hexd_res]
    · rfl
    · exact absurd he hi

/-- Settles O54: stream by stream, by what a command can do to the unit the stream belongs to. -/
theorem commandsEmitAtMost : Obligations.CommandsEmitAtMost := by
  unfold Obligations.CommandsEmitAtMost
  intro s t i h
  refine ⟨?_, ?_, ?_, ?_, exec_b64d_res_length h, exec_hexd_res_length h⟩
  · rcases exec_b64e_out_cases h with ho | ⟨⟨a, rfl⟩ | rfl, vs, hvs, ho⟩
    · rw [ho]
      exact Nat.le_add_right _ _
    · simp [ho, hvs]
    · simp [ho, hvs]
  · rcases exec_b64d_cases h with ⟨-, ho, -⟩ | ⟨a, rfl, -, rfl⟩ | ⟨rfl, rfl⟩
    · rw [ho]
      exact Nat.le_add_right _ _
    · exact b64dSymbol_out_length_le (class64 a) s
    · exact closeLastGroup_out_length_le s
  · cases i with
    | hexeNop | hexeEnd =>
      cases h
      rfl
    | hexeData a =>
      cases h
      simp [hexChars]
    | _ => exact congrArg List.length ((updatesOnly_of_exec_eq h).hexe_eq (by simp [Instr.unit]))
  · rcases exec_hexd_cases h with ⟨-, ho, -⟩ | ⟨a, rfl, -, ⟨-, rfl⟩ | ⟨-, rfl⟩⟩ | ⟨rfl, rfl⟩
    · rw [ho]
      exact Nat.le_add_right _ _
    · exact completePair_out_length_le (ascNib a) s
    · exact Nat.le_add_right _ 1
    · exact Nat.le_refl _

end Sys2Proof.Machine

/-! PROOFS. O51: a program does to each unit what that unit's commands do to it alone (30_encoding.md R93;
20_memory.md R65). -/

namespace Sys2Proof.Machine

/-- The state as one unit sees it: the parameters, the inputs and that unit's registers, streams and free
index, with everything else as reset leaves it. -/
def State.only (s : State) (u : UnitId) : State :=
  match u with
  | .b64e => { State.reset with
      params := s.params, input := s.input, b64e := s.b64e
      sinks := { Sinks.empty with b64e_out := s.sinks.b64e_out } }
  | .b64d => { State.reset with
      params := s.params, input := s.input, b64d := s.b64d, freeD := s.freeD
      sinks := { Sinks.empty with b64d_out := s.sinks.b64d_out, b64d_res := s.sinks.b64d_res } }
  | .hexe => { State.reset with
      params := s.params, input := s.input
      sinks := { Sinks.empty with hexe_out := s.sinks.hexe_out } }
  | .hexd => { State.reset with
      params := s.params, input := s.input, hexd := s.hexd, freeH := s.freeH
      sinks := { Sinks.empty with hexd_out := s.sinks.hexd_out, hexd_res := s.sinks.hexd_res } }

@[simp] theorem State.only_b64e (s : State) : (s.only .b64e).b64e = s.b64e := rfl
@[simp] theorem State.only_b64d (s : State) : (s.only .b64d).b64d = s.b64d := rfl
@[simp] theorem State.only_hexd (s : State) : (s.only .hexd).hexd = s.hexd := rfl

/-- The four units' views hold the whole state (10_state.md R20). -/
theorem eq_of_only_eq {s t : State} (h : ∀ u, s.only u = t.only u) : s = t := by
  have he := h .b64e
  have hd := h .b64d
  have hx := h .hexe
  have hh := h .hexd
  obtain ⟨_, _, _, _, _, ⟨_, _, _, _, _, _⟩, _, _⟩ := s
  obtain ⟨_, _, _, _, _, ⟨_, _, _, _, _, _⟩, _, _⟩ := t
  simp_all [State.only]

/-- The updates of one unit are not seen by another. -/
theorem UpdatesOnly.only_eq {v u : UnitId} {s t : State} (h : UpdatesOnly v s t) (hu : v ≠ u) :
    t.only u = s.only u := by
  cases u with
  | b64e =>
    obtain ⟨hr, ho⟩ := h.b64e_eq hu
    simp only [State.only, h.params_eq, h.input_eq, hr, ho]
  | b64d =>
    obtain ⟨hr, ho, hres, hf⟩ := h.b64d_eq hu
    simp only [State.only, h.params_eq, h.input_eq, hr, ho, hres, hf]
  | hexe => simp only [State.only, h.params_eq, h.input_eq, h.hexe_eq hu]
  | hexd =>
    obtain ⟨hr, ho, hres, hf⟩ := h.hexd_eq hu
    simp only [State.only, h.params_eq, h.input_eq, hr, ho, hres, hf]

/-! ### The shared operations and the commands work on their unit's view -/

theorem accumulate_only (acc : Group) (v : Nat) (s : State) :
    (s.only .b64d).accumulate acc v = (s.accumulate acc v).only .b64d := by
  unfold State.accumulate
  rw [State.only_b64d]
  split <;> rfl

theorem b64dSymbol_only (c : Class64) (s : State) :
    (s.only .b64d).b64dSymbol c = (s.b64dSymbol c).only .b64d := by
  cases c with
  | ws | invalid => rfl
  | pad | alpha => exact accumulate_only _ _ s

theorem closeLastGroup_only (s : State) :
    (s.only .b64d).closeLastGroup = s.closeLastGroup.only .b64d := by
  unfold State.closeLastGroup
  rw [State.only_b64d]
  split <;> rfl

theorem completePair_only (q : Option Nibble) (s : State) :
    (s.only .hexd).completePair q = (s.completePair q).only .hexd := by
  unfold State.completePair
  rw [State.only_hexd]
  split <;> rfl

/-- What a command does to its unit is what it does to the unit alone (10_state.md R20). -/
theorem exec_only {i : Instr} {s t : State} (h : exec i s = .next t) :
    exec i (s.only i.unit) = .next (t.only i.unit) := by
  cases i with
  | b64eNop | b64dNop | hexeNop | hexeEnd | hexdNop | hexeData | hexdEnd =>
    cases h
    rfl
  | b64eData a =>
    cases h
    simp only [exec, execB64eData, done_eq, Instr.unit, State.only_b64e]
    split <;> rfl
  | b64eEnd =>
    cases h
    simp only [exec, execB64eEnd, done_eq, Instr.unit, State.only_b64e]
    split <;> rfl
  | b64dData a =>
    cases h
    simp only [exec, execB64dData, done_eq, Instr.unit, State.only_b64d, b64dSymbol_only]
    split <;> rfl
  | b64dEnd =>
    cases h
    simp only [exec, execB64dEnd, done_eq, Instr.unit, closeLastGroup_only]
    rfl
  | hexdData a =>
    cases h
    simp only [exec, execHexdData, done_eq, Instr.unit, State.only_hexd, completePair_only]
    split
    · rfl
    · split <;> rfl

theorem commandsOf_cons_self (i : Instr) (is : List Instr) :
    commandsOf i.unit (i :: is) = i :: commandsOf i.unit is := by
  simp [commandsOf]

theorem commandsOf_cons_of_ne {u : UnitId} {i : Instr} (hu : i.unit ≠ u) (is : List Instr) :
    commandsOf u (i :: is) = commandsOf u is := by
  simp [commandsOf, hu]

/-- A run does to a unit what the unit's own commands do to it alone (30_encoding.md R93). -/
theorem runCommands_only {is : List Instr} {s t : State} (h : runCommands is s = .next t) (u : UnitId) :
    runCommands (commandsOf u is) (s.only u) = .next (t.only u) := by
  induction is generalizing s with
  | nil =>
    cases h
    rfl
  | cons i is ih =>
    obtain ⟨v, hv⟩ := exec_isNext i s
    rw [runCommands_cons i is s v hv] at h
    by_cases hu : i.unit = u
    · subst hu
      rw [commandsOf_cons_self, runCommands_cons i _ _ _ (exec_only hv)]
      exact ih h
    · rw [commandsOf, List.filter_cons_of_neg (by simpa using hu),
        ← (updatesOnly_of_exec_eq hv).only_eq hu]
      exact ih h

/-- Programs with the same commands for each unit leave the same state (30_encoding.md R93). -/
theorem runCommands_eq_of_commandsOf_eq {is js : List Instr} (h : ∀ u, commandsOf u is = commandsOf u js)
    (s : State) : runCommands is s = runCommands js s := by
  obtain ⟨t, ht⟩ := runCommands_isNext is s
  obtain ⟨t', ht'⟩ := runCommands_isNext js s
  have hview : ∀ u, t.only u = t'.only u := fun u =>
    Host.Outcome.next.inj ((runCommands_only ht u).symm.trans (h u ▸ runCommands_only ht' u))
  rw [ht, ht', eq_of_only_eq hview]

/-- Settles O51: in either order each unit is given the same commands. -/
theorem commandsOfDifferentUnitsCommute : Obligations.CommandsOfDifferentUnitsCommute := by
  unfold Obligations.CommandsOfDifferentUnitsCommute
  intro p q s hpq
  refine runCommands_eq_of_commandsOf_eq (fun u => ?_) s
  by_cases hp : p.unit = u
  · have hq : q.unit ≠ u := hp ▸ hpq.symm
    simp [commandsOf, hp, hq]
  · simp [commandsOf, hp, List.filter_cons]

end Sys2Proof.Machine

/-! PROOFS. O3, O4, O2, O5, O1: the fields of a command word (30_encoding.md R81 to R86). -/

namespace Sys2Proof

/-! ### The words by their fields -/

/-- A container is its upper four bits and a command word (30_encoding.md R82). -/
theorem word_eq_fields (w : Word) : ∃ (h : BitVec 4) (u : UnitId) (k : BitVec 2) (d : Sym),
    w = h ++ (u.code ++ (k ++ d)) := by
  obtain ⟨u, k, d, hc⟩ := cmd_eq_fields (w.extractLsb' 0 12)
  exact ⟨w.extractLsb' 12 4, u, k, d, hc ▸ (split_append (m := 4) (n := 12) w).symm⟩

/-- The `kind` field of a command word (30_encoding.md R81). -/
theorem kindField_cmd (u : BitVec 2) (k : BitVec 2) (d : Sym) :
    (u ++ (k ++ d) : Cmd).extractLsb' 8 2 = k :=
  (BitVec.extractLsb'_append_eq_of_add_le (by decide)).trans (append_hi k d)

/-- The `data` field of a command word (30_encoding.md R81). -/
theorem dataField_cmd (u : BitVec 2) (k : BitVec 2) (d : Sym) :
    (u ++ (k ++ d) : Cmd).extractLsb' 0 8 = d :=
  (BitVec.extractLsb'_append_eq_of_add_le (by decide)).trans (append_lo k d)

/-- The `kind` field of a container (30_encoding.md R81, R82). -/
theorem kindField_word (h : BitVec 4) (u : BitVec 2) (k : BitVec 2) (d : Sym) :
    (h ++ (u ++ (k ++ d)) : Word).extractLsb' 8 2 = k :=
  (BitVec.extractLsb'_append_eq_of_add_le (by decide)).trans (kindField_cmd u k d)

/-- The masks of R85 and R83 keep every field but `data`. -/
theorem cmd_and_mask (u : BitVec 2) (k : BitVec 2) (d : Sym) :
    (u ++ (k ++ d) : Cmd) &&& 0xF00#12 = u ++ (k ++ 0#8) := by
  have hm : 0xF00#12 = (0b11#2 ++ (0b11#2 ++ 0#8) : Cmd) := rfl
  have hf : ∀ c : BitVec 2, c &&& 0b11#2 = c := by decide
  rw [hm]
  refine (append_and (m := 2) (n := 10) _ _ _ _).trans ?_
  rw [append_and, hf, hf, BitVec.and_zero]

theorem word_and_mask (h : BitVec 4) (u : BitVec 2) (k : BitVec 2) (d : Sym) :
    (h ++ (u ++ (k ++ d)) : Word) &&& 0xFF00#16 = h ++ (u ++ (k ++ 0#8)) := by
  have hm : 0xFF00#16 = (0b1111#4 ++ 0xF00#12 : Word) := rfl
  have hf : ∀ c : BitVec 4, c &&& 0b1111#4 = c := by decide
  rw [hm]
  refine (append_and (m := 4) (n := 12) _ _ _ _).trans ?_
  rw [cmd_and_mask, hf]

/-- Decode in the container, by fields (30_encoding.md R81, R82). -/
theorem decodeWord_fields (h : BitVec 4) (c : Cmd) :
    decodeWord (h ++ c) = if h = 0#4 then decodeCmd c else .error .highBitsSet := by
  rw [decodeWord, Word.highBitsClear, show (h ++ c : Word).extractLsb' 12 4 = h from append_hi h c,
    show (h ++ c : Word).extractLsb' 0 12 = c from append_lo h c]
  simp

theorem decodeCmd_reserved (u : UnitId) (d : Sym) :
    decodeCmd (u.code ++ (0b11#2 ++ d)) = .error .reservedKind := by
  rw [decodeCmd_fields, decodePort_fields, (kindOfCode_eq_none _).2 rfl]

/-- A defined `kind` field is the code of a kind (30_encoding.md R81, R86). -/
theorem exists_kind_code {c : BitVec 2} (h : c ≠ 0b11#2) : ∃ k : Kind, k.code = c := by
  cases hk : kindOfCode c with
  | none => exact absurd ((kindOfCode_eq_none c).1 hk) h
  | some k => exact ⟨k, code_of_kindOfCode c k hk⟩

/-- The word of the command of some fields is those fields, `data` zeroed if it is not used
(30_encoding.md R83). -/
theorem encodeWord_ofFields (u : UnitId) (k : Kind) (d : Sym) :
    encodeWord (Instr.ofFields u k d) =
      0#4 ++ (u.code ++ (k.code ++ if k = .data then d else 0#8)) := by
  rw [encodeWord, encodeCmd, encodePort, unit_ofFields, kind_ofFields, dataField_ofFields]

/-! ### Decoding an encoded command -/

theorem decodePort_encodePort (i : Instr) : decodePort i.unit (encodePort i) = .ok i := by
  rw [encodePort, decodePort_fields, kindOfCode_code]
  exact congrArg Except.ok (ofFields_self i)

theorem decodeCmd_encodeCmd (i : Instr) : decodeCmd (encodeCmd i) = .ok i := by
  rw [encodeCmd, decodeCmd_fields, unitOfCode_code, decodePort_encodePort]

theorem decodeWord_encodeWord (i : Instr) : decodeWord (encodeWord i) = .ok i := by
  rw [encodeWord, decodeWord_fields, if_pos rfl, decodeCmd_encodeCmd]

/-! ### Which words are commands -/

theorem decodeWord_highBitsSet {w : Word} (h : w.extractLsb' 12 4 ≠ 0#4) :
    decodeWord w = .error .highBitsSet := by
  rw [decodeWord, if_neg (by simpa [Word.highBitsClear] using h)]

theorem decodeWord_reservedKind {w : Word} (h : w.extractLsb' 12 4 = 0#4)
    (hk : w.extractLsb' 8 2 = 0b11#2) : decodeWord w = .error .reservedKind := by
  obtain ⟨hb, u, k, d, rfl⟩ := word_eq_fields w
  have hb0 : hb = 0#4 := (append_hi (m := 4) (n := 12) hb _).symm.trans h
  rw [kindField_word] at hk
  rw [decodeWord_fields, if_pos hb0, hk, decodeCmd_reserved]

theorem decodeWord_command {w : Word} (h : w.extractLsb' 12 4 = 0#4) (hk : w.extractLsb' 8 2 ≠ 0b11#2) :
    ∃ i, decodeWord w = .ok i ∧ encodeWord i = if i.kind = .data then w else w &&& 0xFF00#16 := by
  obtain ⟨hb, u, k, d, rfl⟩ := word_eq_fields w
  have hb0 : hb = 0#4 := (append_hi (m := 4) (n := 12) hb _).symm.trans h
  rw [kindField_word] at hk
  obtain ⟨k, rfl⟩ := exists_kind_code hk
  refine ⟨Instr.ofFields u k d, by rw [decodeWord_fields, if_pos hb0, decodeCmd_code], ?_⟩
  rw [encodeWord_ofFields, kind_ofFields, word_and_mask, hb0]
  split <;> rfl

/-- A word the decoder reads passes the checks of R82 and R86. -/
theorem wf_of_decodeWord {w : Word} {i : Instr} (h : decodeWord w = .ok i) : w.wf = true := by
  have hb : w.extractLsb' 12 4 = 0#4 := by
    by_contra hb
    rw [decodeWord_highBitsSet hb] at h
    cases h
  have hk : w.extractLsb' 8 2 ≠ 0b11#2 := fun hk => by
    rw [decodeWord_reservedKind hb hk] at h
    cases h
  simp [Word.wf, Word.highBitsClear, Word.kindDefined, hb, hk]

/-- Settles O3: a command is its fields, and the decoder reads the fields that the encoder joins. -/
theorem decodeInvertsEncode : Obligations.DecodeInvertsEncode := by
  unfold Obligations.DecodeInvertsEncode
  intro i _
  exact ⟨decodeWord_encodeWord i, decodeCmd_encodeCmd i, decodePort_encodePort i,
    wf_of_decodeWord (decodeWord_encodeWord i)⟩

/-- Settles O4: the three outcomes, by the upper bits and the `kind` field. -/
theorem decodeAcceptsExactlyTheCommands : Obligations.DecodeAcceptsExactlyTheCommands := by
  unfold Obligations.DecodeAcceptsExactlyTheCommands
  intro w
  exact ⟨decodeWord_highBitsSet, decodeWord_reservedKind, decodeWord_command⟩

/-- Settles O5: the decoder of the word goes by the `unit` field to that unit's port. -/
theorem portImpliesTheUnit : Obligations.PortImpliesTheUnit := by
  unfold Obligations.PortImpliesTheUnit
  intro u c
  rw [decodeCmd_fields, unitOfCode_code]

/-- Settles O1: the decoder's outcome on each of the words. -/
theorem writtenWordsDecode : Obligations.WrittenWordsDecode := by
  unfold Obligations.WrittenWordsDecode
  and_intros <;> rfl

/-! ### The opcode map (30_encoding.md R85, R86) -/

theorem opcodeTable_pattern : ∀ r ∈ opcodeTable,
    r.mask = 0xF00#12 ∧ r.pattern = r.unit.code ++ (r.kind.code ++ 0#8) := by decide

theorem reservedPatterns_kind : ∀ p ∈ reservedPatterns, p.extractLsb' 8 2 = 0b11#2 := by
  simp [reservedPatterns]

/-- A row selects a word by its `unit` and `kind` fields. -/
theorem selects_fields {r : OpcodeRow} (hr : r ∈ opcodeTable) (u : UnitId) (k : BitVec 2) (d : Sym) :
    r.selects (u.code ++ (k ++ d)) = true ↔ r.unit.code = u.code ∧ r.kind.code = k := by
  obtain ⟨hm, hp⟩ := opcodeTable_pattern r hr
  rw [OpcodeRow.selects, hm, hp, cmd_and_mask, beq_iff_eq]
  refine (append_inj (m := 2) (n := 10) _ _ _ _).trans ?_
  rw [append_inj]
  simp only [and_true, eq_comm]

/-- Of the 16 patterns, each pair of `unit` and `kind` fields has its own. -/
theorem count_patterns (u : UnitId) (k : BitVec 2) :
    opcodeTable.countP (fun r => u.code ++ (k ++ 0#8) == r.pattern) +
      reservedPatterns.countP (fun p => u.code ++ (k ++ 0#8) == p) = 1 := by
  cases u <;> (revert k; decide)

/-- Settles O2: rows and reserved patterns select by the `unit` and `kind` fields. -/
theorem opcodeMapPartitionsTheWords : Obligations.OpcodeMapPartitionsTheWords := by
  unfold Obligations.OpcodeMapPartitionsTheWords
  intro w
  obtain ⟨u, k, d, rfl⟩ := cmd_eq_fields w
  refine ⟨fun r hr hs => ?_, fun p hp hs => ?_, ?_⟩
  · obtain ⟨hu, hk⟩ := (selects_fields hr u k d).1 hs
    rw [← hu, ← hk, decodeCmd_code, dataField_cmd]
  · rw [cmd_and_mask] at hs
    have hk := reservedPatterns_kind p hp
    rw [← hs, kindField_cmd] at hk
    rw [hk, decodeCmd_reserved]
  · rw [cmd_and_mask, ← count_patterns u k]
    congr 1
    refine List.countP_congr fun r hr => ?_
    rw [OpcodeRow.selects, (opcodeTable_pattern r hr).1, cmd_and_mask]

end Sys2Proof

/-! PROOFS. O8, O9, O12, O52: a step takes the next word, and a program runs word by word (30_encoding.md R82,
R86, R93; 20_memory.md R64, R70). -/

namespace Sys2Proof.Machine

/-- A word that is rejected is refused by name (30_encoding.md R82, R86). -/
theorem step_rejected {s : State} {w : Word} {rest : List HostInput} {r : Reject}
    (h : s.input = .word w :: rest) (hd : decodeWord w = .error r) : step s = .refused (refusalOf r) := by
  simp only [step, h, hd]

theorem run_succ {s t : State} (h : step s = .next t) (n : Nat) :
    Host.Core.run core (n + 1) s = Host.Core.run core n t := by
  have hs : core.step s = .next t := h
  simp only [Host.Core.run, hs]

/-- The inputs by which a program is issued, word by word (30_encoding.md R93). -/
def programInputs (is : List Instr) : List HostInput := is.map (fun i => .word (encodeWord i))

theorem step_programInputs_cons {i : Instr} {s t : State} (h : exec i s = .next t) (is : List Instr)
    (rest : List HostInput) :
    step (s.setInput (programInputs (i :: is) ++ rest)) = .next (t.setInput (programInputs is ++ rest)) :=
  calc step (s.setInput (programInputs (i :: is) ++ rest))
      = exec i (s.setInput (programInputs is ++ rest)) :=
        step_word (s.setInput (programInputs (i :: is) ++ rest)) _ _ i rfl (decodeWord_encodeWord i)
    _ = .next (t.setInput (programInputs is ++ rest)) := exec_setInput i s t _ h

/-- The words of a program run as its commands do, and what was issued after them is left. -/
theorem run_programInputs (is : List Instr) (s : State) (rest : List HostInput) :
    Host.Core.run core is.length (s.setInput (programInputs is ++ rest)) =
      runCommands is (s.setInput rest) := by
  induction is generalizing s with
  | nil => rfl
  | cons i is ih =>
    obtain ⟨t, ht⟩ := exec_isNext i s
    rw [runCommands_cons i is _ _ (exec_setInput i s t rest ht), ← ih t, List.length_cons,
      run_succ (step_programInputs_cons ht is rest)]

/-- Settles O8: what `step` does with a word that decodes. -/
theorem stepRunsTheDecodedCommand : Obligations.StepRunsTheDecodedCommand := by
  unfold Obligations.StepRunsTheDecodedCommand
  intro s w rest i h hd
  exact step_word s w rest i h hd

/-- Settles O9: the decoder's reason is the refusal's name. -/
theorem stepRefusesWordsThatAreNoCommand : Obligations.StepRefusesWordsThatAreNoCommand := by
  unfold Obligations.StepRefusesWordsThatAreNoCommand
  intro s w rest h
  exact ⟨fun hb => step_rejected h (decodeWord_highBitsSet hb),
    fun hb hk => step_rejected h (decodeWord_reservedKind hb hk)⟩

/-- Settles O12: by induction on the program, whose words each decode to their command. -/
theorem issuedProgramRunsInOrder : Obligations.IssuedProgramRunsInOrder := by
  unfold Obligations.IssuedProgramRunsInOrder
  intro is s rest
  exact run_programInputs is s rest

/-- Settles O52: the unit's view of the end state is that of a run of its own commands alone. -/
theorem programsDependOnlyOnPerUnitSubsequences : Obligations.ProgramsDependOnlyOnPerUnitSubsequences := by
  unfold Obligations.ProgramsDependOnlyOnPerUnitSubsequences
  intro ps qs s h
  exact runCommands_eq_of_commandsOf_eq h s

end Sys2Proof.Machine

/-! PROOFS. O6, O7, O60: the lines the assembler reads (30_encoding.md R83, R89, R90; log entry 12). -/

namespace Sys2Proof.Machine

/-! ### A line by its mnemonic: the names are read, whatever follows them -/

section
variable (u : UnitId) {r : List Sym}

theorem assembleLine_nop (h : lineDone r = true) :
    assembleLine (UnitId.name u ++ text ".NOP" ++ r) = some [nopCommand u] := by
  cases u <;> exact if_pos h

theorem assembleLine_end (h : lineDone r = true) :
    assembleLine (UnitId.name u ++ text ".END" ++ r) = some [endCommand u] := by
  cases u <;> exact if_pos h

theorem assembleLine_bytes {vs : List Sym} (h : parseBytes (r.length + 1) r = some vs) :
    assembleLine (UnitId.name u ++ text ".BYTES" ++ r) = some (message u vs) := by
  cases u <;> exact congrArg (Option.map (message _)) h

theorem assembleLine_data {v : Sym} (h : parseBytes (r.length + 1) r = some [v]) :
    assembleLine (UnitId.name u ++ text ".DATA" ++ r) = some [dataCommand u v] := by
  have hl : assembleLine (UnitId.name u ++ text ".DATA" ++ r) =
      match parseBytes (r.length + 1) r with
      | some [v] => some [dataCommand u v]
      | _ => none := by cases u <;> rfl
  rw [hl, h]

theorem assembleLine_msg {m : List Sym} (h : parseQuoted r = some (m, [])) :
    assembleLine (UnitId.name u ++ text ".MSG \"" ++ r) = some (message u m) := by
  have hl : assembleLine (UnitId.name u ++ text ".MSG \"" ++ r) =
      match parseQuoted r with
      | some (m, r'') => if lineDone r'' then some (message u m) else none
      | none => none := by cases u <;> rfl
  rw [hl, h]
  rfl
end

/-! ### Operands -/

/-- A digit is neither a blank nor the start of a comment. -/
theorem not_blank_of_isDigit : ∀ c : Sym, isDigit c = true → isBlank c = false ∧ c ≠ 0x3B#8 := by
  decide +kernel

/-- An operand in any form of R89 begins with neither a blank nor a comment. -/
theorem spellsOperand_head {t : List Sym} {v : Sym} (h : spellsOperand t v) :
    ∃ c t', t = c :: t' ∧ isBlank c = false ∧ c ≠ 0x3B#8 := by
  rcases h with ⟨a, b, hi, lo, rfl, -⟩ | rfl | ⟨-, rfl⟩ | ⟨-, rfl⟩ | ⟨-, rfl⟩ | ⟨-, rfl⟩
  · exact ⟨0x30#8, [0x78#8, a, b], rfl, by decide⟩
  · obtain ⟨c, t', ht⟩ := List.exists_cons_of_ne_nil (decimalText_ne_nil v)
    exact ⟨c, t', ht, not_blank_of_isDigit c (decimalText_isDigit v c (ht ▸ List.mem_cons_self))⟩
  all_goals exact ⟨_, _, rfl, by decide⟩

/-- What ends a line ends an operand. -/
theorem endsOperand_of_lineDone {t : List Sym} (h : lineDone t = true) : EndsOperand t := by
  cases t with
  | nil => simp [EndsOperand]
  | cons c t =>
    cases hc : isBlank c
    · have : c = 0x3B#8 := by simpa [lineDone, skipBlanks, hc] using h
      simp [EndsOperand, this]
    · simp [EndsOperand, hc]

/-- The operands of `.BYTES` and of DATA as they are written, a blank before each (R89, R90). -/
def operandsText (bs : List (List Sym × Sym)) : List Sym := (bs.map (fun b => text " " ++ b.1)).flatten

theorem operandsText_cons (b : List Sym × Sym) (bs : List (List Sym × Sym)) :
    operandsText (b :: bs) = 0x20#8 :: (b.1 ++ operandsText bs) := rfl

theorem endsOperand_operandsText (bs : List (List Sym × Sym)) {rest : List Sym} (h : lineDone rest = true) :
    EndsOperand (operandsText bs ++ rest) := by
  cases bs with
  | nil => exact endsOperand_of_lineDone h
  | cons b bs => simp [EndsOperand, operandsText_cons, isBlank]

/-- The operands are read one by one, up to what ends the line (30_encoding.md R89, R90). -/
theorem parseBytes_operandsText {bs : List (List Sym × Sym)} (hbs : ∀ b ∈ bs, spellsOperand b.1 b.2)
    {rest : List Sym} (h : lineDone rest = true) {fuel : Nat}
    (hf : (operandsText bs ++ rest).length < fuel) :
    parseBytes fuel (operandsText bs ++ rest) = some (bs.map Prod.snd) := by
  induction bs generalizing fuel with
  | nil =>
    obtain ⟨n, rfl⟩ := Nat.exists_eq_add_one_of_ne_zero (Nat.ne_zero_of_lt hf)
    exact if_pos h
  | cons b bs ih =>
    obtain ⟨n, rfl⟩ := Nat.exists_eq_add_one_of_ne_zero (Nat.ne_zero_of_lt hf)
    obtain ⟨hb, hbs⟩ := List.forall_mem_cons.1 hbs
    obtain ⟨c, t, ht, hc, hsemi⟩ := spellsOperand_head hb
    have hblank : isBlank 0x20#8 = true := rfl
    have hskip : skipBlanks (operandsText (b :: bs) ++ rest) = b.1 ++ (operandsText bs ++ rest) := by
      simp [skipBlanks, operandsText_cons, ht, hc, hblank]
    have hopen : lineDone (operandsText (b :: bs) ++ rest) = false := by
      simp [lineDone, hskip, ht, hsemi]
    have hlen : (operandsText bs ++ rest).length < n := by
      simp only [operandsText_cons, List.cons_append, List.length_cons, List.length_append] at hf ⊢
      omega
    rw [parseBytes, hopen, hskip, parseOperand_spells b.1 _ b.2 hb (endsOperand_operandsText bs h)]
    simp [operandsText_cons, hblank, ih hbs hlen]

/-- One operand of DATA, and what ends the line after it (30_encoding.md R89). -/
theorem assembleLine_data_operand (u : UnitId) {t rest : List Sym} {v : Sym} (ht : spellsOperand t v)
    (h : lineDone rest = true) :
    assembleLine (UnitId.name u ++ text ".DATA " ++ t ++ rest) = some [dataCommand u v] := by
  have hp := parseBytes_operandsText (bs := [(t, v)]) (by simpa using ht) h (Nat.lt_succ_self _)
  have e : UnitId.name u ++ text ".DATA " ++ t ++ rest =
      UnitId.name u ++ text ".DATA" ++ (operandsText [(t, v)] ++ rest) := by
    simp [operandsText, text]
  rw [e, assembleLine_data u hp]

/-! ### The text of MSG -/

/-- A character that the text of MSG can hold, as it is or by its escape (R89, R90; log entry 12). -/
def MsgChar (c : Sym) : Prop :=
  (isPrintable c = true ∧ c ≠ 0x22#8 ∧ c ≠ 0x5C#8) ∨ c = 0x09#8 ∨ c = 0x0A#8 ∨ c = 0x0D#8

/-- A printable character has no escape (30_encoding.md R89). -/
theorem msgSpelling_of_isPrintable {c : Sym} (h : isPrintable c = true) : msgSpelling c = [c] := by
  have hne : ∀ c : Sym, isPrintable c = true → c ≠ 0x09#8 ∧ c ≠ 0x0A#8 ∧ c ≠ 0x0D#8 := by
    decide +kernel
  simp [msgSpelling, hne c h]

theorem parseQuoted_escape {e v : Sym} (he : escapeCode e = some v) {t m rest : List Sym}
    (ht : parseQuoted t = some (m, rest)) : parseQuoted (0x5C#8 :: e :: t) = some (v :: m, rest) := by
  simp [parseQuoted, he, ht]

/-- A character of the text of MSG, written as it is or by its escape, is read back (R89, R90). -/
theorem parseQuoted_msgSpelling {c : Sym} (h : MsgChar c) {t m rest : List Sym}
    (ht : parseQuoted t = some (m, rest)) :
    parseQuoted (msgSpelling c ++ t) = some (c :: m, rest) := by
  rcases h with ⟨hp, hquote, hback⟩ | rfl | rfl | rfl
  · rw [msgSpelling_of_isPrintable hp, List.singleton_append]
    unfold parseQuoted
    simp [hp, hquote, hback, ht]
  · exact parseQuoted_escape (e := 0x74#8) rfl ht
  · exact parseQuoted_escape (e := 0x6E#8) rfl ht
  · exact parseQuoted_escape (e := 0x72#8) rfl ht

/-- The text of MSG is read up to the quote that ends it (30_encoding.md R90). -/
theorem parseQuoted_msgText {m : List Sym} (h : ∀ c ∈ m, MsgChar c) :
    parseQuoted ((m.map msgSpelling).flatten ++ text "\"") = some (m, []) := by
  induction m with
  | nil => rfl
  | cons c m ih =>
    obtain ⟨hc, hm⟩ := List.forall_mem_cons.1 h
    rw [List.map_cons, List.flatten_cons, List.append_assoc]
    exact parseQuoted_msgSpelling hc (ih hm)

/-- Settles O7: the text of MSG character by character, the operands of BYTES one by one. -/
theorem pseudoInstructionsExpandToTheMessage : Obligations.PseudoInstructionsExpandToTheMessage := by
  unfold Obligations.PseudoInstructionsExpandToTheMessage
  refine fun u => ⟨fun m hm => ?_, fun bs hbs => ?_⟩
  · rw [List.append_assoc]
    exact assembleLine_msg u (parseQuoted_msgText hm)
  · have hp := parseBytes_operandsText hbs (rest := []) rfl (Nat.lt_succ_self _)
    rw [List.append_nil] at hp
    refine (assembleLine_bytes u hp).trans ?_
    simp [message, Function.comp_def]

/-- Settles O60: the operand in each form and then what ends the line. -/
theorem operandsAndCommentsAreRead : Obligations.OperandsAndCommentsAreRead := by
  unfold Obligations.OperandsAndCommentsAreRead
  refine fun u t c v => ⟨fun ht => ⟨?_, ?_⟩, ?_, ?_, rfl⟩
  · simpa using assembleLine_data_operand u ht (rest := []) rfl
  · rw [List.append_assoc _ (text ";")]
    exact assembleLine_data_operand u ht rfl
  · have h := assembleLine_nop u (r := 0x3B#8 :: c) rfl
    simpa [text] using h
  · have h := assembleLine_end u (r := 0x3B#8 :: c) rfl
    simpa [text] using h

/-! ### The disassembler's lines -/

/-- The line of a command, by its fields (30_encoding.md R83, R89). -/
theorem disassemble_ofFields (u : UnitId) (k : Kind) (d : Sym) :
    disassemble (Instr.ofFields u k d) = UnitId.name u ++ text "." ++ Kind.name k ++
      (if k = .data then text " 0x" ++ hexChars d else []) := by
  cases u <;> cases k <;> rfl

theorem spellsOperand_hexChars (v : Sym) : spellsOperand (text "0x" ++ hexChars v) v :=
  .inl ⟨_, _, _, _, rfl, ascNib_nibAsc _, ascNib_nibAsc _, (split_append (m := 4) (n := 4) v).symm⟩

theorem ofFields_nop (u : UnitId) (d : Sym) : Instr.ofFields u .nop d = nopCommand u := by
  cases u <;> rfl

theorem ofFields_fin (u : UnitId) (d : Sym) : Instr.ofFields u .fin d = endCommand u := by
  cases u <;> rfl

theorem assembleLine_disassemble_ofFields (u : UnitId) (k : Kind) (d : Sym) :
    assembleLine (disassemble (Instr.ofFields u k d)) = some [Instr.ofFields u k d] := by
  rw [disassemble_ofFields]
  cases k with
  | nop => simpa [text, Kind.name, ofFields_nop] using assembleLine_nop u (r := []) rfl
  | data =>
    have h := assembleLine_data_operand u (spellsOperand_hexChars d) (rest := []) rfl
    simpa [text, Kind.name, dataCommand] using h
  | fin => simpa [text, Kind.name, ofFields_fin] using assembleLine_end u (r := []) rfl

/-- Settles O6: a command is its fields, and its line is read by its mnemonic and its operand. -/
theorem assemblerReadsTheDisassembly : Obligations.AssemblerReadsTheDisassembly := by
  unfold Obligations.AssemblerReadsTheDisassembly
  intro i
  have hl := disassemble_ofFields i.unit i.kind i.dataField
  have ha := assembleLine_disassemble_ofFields i.unit i.kind i.dataField
  rw [ofFields_self] at hl ha
  exact ⟨ha, hl⟩

end Sys2Proof.Machine

/-! PROOFS. O41, O14: NOPs do nothing, and a presented message is B64ENC of it (30_encoding.md R80;
40_b64_encoder.md R104 to R107). -/

namespace Sys2Proof.Machine

/-! ### NOPs of a presented message -/

/-- The NOP of any unit leaves the state (R104; 41_b64_decoder.md R132; 42_hex_encoder.md R152;
43_hex_decoder.md R167). -/
theorem exec_nopCommand (u : UnitId) (s : State) : exec (nopCommand u) s = .next s := by
  cases u <;> rfl

/-- Settles O14: each word is its unit's code, the kind NOP and any `data` field. -/
theorem nopsChangeNothing : Obligations.NopsChangeNothing := by
  unfold Obligations.NopsChangeNothing
  intro s x
  exact ⟨decodeCmd_pattern _ .b64e .nop x rfl, exec_nopCommand .b64e s,
    decodeCmd_pattern _ .b64d .nop x rfl, exec_nopCommand .b64d s,
    decodeCmd_pattern _ .hexe .nop x rfl, exec_nopCommand .hexe s,
    decodeCmd_pattern _ .hexd .nop x rfl, exec_nopCommand .hexd s⟩

/-- A run is the run of its commands that are not a given unit's NOP. -/
theorem runCommands_filter_nopCommand (u : UnitId) (is : List Instr) (s : State) :
    runCommands (is.filter (fun i => i != nopCommand u)) s = runCommands is s := by
  induction is generalizing s with
  | nil => rfl
  | cons i is ih =>
    obtain ⟨t, ht⟩ := exec_isNext i s
    by_cases hi : i = nopCommand u
    · subst hi
      rw [List.filter_cons_of_neg (by simp), runCommands_cons _ is s s (exec_nopCommand u s)]
      exact ih s
    · rw [List.filter_cons_of_pos (by simpa using hi), runCommands_cons i _ s t ht,
        runCommands_cons i is s t ht]
      exact ih t

/-- A presented message runs as the message itself (30_encoding.md R80). -/
theorem runCommands_of_presents {u : UnitId} {m : List Sym} {is : List Instr} (h : presents u m is)
    (s : State) : runCommands is s = runCommands (message u m) s := by
  rw [← h, runCommands_filter_nopCommand]

/-! ### B64E's commands, phase by phase (R105, R106) -/

section
variable {s : State}

theorem exec_b64eData_phase0 (h : s.b64e.e_phase = 0) (a : Sym) :
    exec (.b64eData a) s = .next (s.setB64e { s.b64e with e_phase := 1, e_b0 := a }) := by
  simp only [exec, execB64eData, h, done_eq]

theorem exec_b64eData_phase1 (h : s.b64e.e_phase = 1) (a : Sym) :
    exec (.b64eData a) s = .next (s.setB64e { s.b64e with e_phase := 2, e_b1 := a }) := by
  simp only [exec, execB64eData, h, done_eq]

theorem exec_b64eData_phase2 (h : s.b64e.e_phase = 2) (a : Sym) :
    exec (.b64eData a) s = .next
      ((s.emitB64e (chars24 s.b64e.e_b0 s.b64e.e_b1 a)).setB64e { s.b64e with e_phase := 0 }) := by
  simp only [exec, execB64eData, h, done_eq]

theorem exec_b64eEnd_phase0 (h : s.b64e.e_phase = 0) :
    exec .b64eEnd s = .next (s.setB64e .reset) := by
  simp only [exec, execB64eEnd, h, done_eq]

theorem exec_b64eEnd_phase1 (h : s.b64e.e_phase = 1) :
    exec .b64eEnd s = .next ((s.emitB64e (chars8 s.b64e.e_b0)).setB64e .reset) := by
  simp only [exec, execB64eEnd, h, done_eq]

theorem exec_b64eEnd_phase2 (h : s.b64e.e_phase = 2) :
    exec .b64eEnd s = .next ((s.emitB64e (chars16 s.b64e.e_b0 s.b64e.e_b1)).setB64e .reset) := by
  simp only [exec, execB64eEnd, h, done_eq]

/-! ### Messages to B64E -/

theorem emitB64e_nil (s : State) : s.emitB64e [] = s := by
  simp only [State.emitB64e, List.append_nil]

theorem emitB64e_append (vs ws : List Sym) (s : State) :
    s.emitB64e (vs ++ ws) = (s.emitB64e vs).emitB64e ws := by
  simp only [State.emitB64e, List.append_assoc]

/-- Three DATAs from phase 0 emit the group they complete and are back in phase 0 (R105). -/
theorem runCommands_b64e_group (h : s.b64e.e_phase = 0) (b0 b1 b2 : Sym) (is : List Instr) :
    runCommands (.b64eData b0 :: .b64eData b1 :: .b64eData b2 :: is) s =
      runCommands is ((s.emitB64e (chars24 b0 b1 b2)).setB64e ⟨0, b0, b1⟩) := by
  rw [runCommands_cons _ _ _ _ (exec_b64eData_phase0 h b0),
    runCommands_cons _ _ _ _ (exec_b64eData_phase1 rfl b1),
    runCommands_cons _ _ _ _ (exec_b64eData_phase2 rfl b2)]
  rfl

/-- A message emits its encoding, by the recursion of `B64ENC` (R103, R107). -/
theorem runCommands_message_b64e (h : s.b64e.e_phase = 0) (m : List Sym) :
    runCommands (message .b64e m) s = .next ((s.emitB64e (b64enc m)).setB64e .reset) := by
  induction m using b64enc.induct generalizing s with
  | case1 =>
    rw [b64enc, emitB64e_nil]
    exact runCommands_cons _ _ _ _ (exec_b64eEnd_phase0 h)
  | case2 b0 =>
    exact (runCommands_cons _ _ _ _ (exec_b64eData_phase0 h b0)).trans
      (runCommands_cons _ _ _ _ (exec_b64eEnd_phase1 rfl))
  | case3 b0 b1 =>
    exact (runCommands_cons _ _ _ _ (exec_b64eData_phase0 h b0)).trans
      ((runCommands_cons _ _ _ _ (exec_b64eData_phase1 rfl b1)).trans
        (runCommands_cons _ _ _ _ (exec_b64eEnd_phase2 rfl)))
  | case4 b0 b1 b2 m ih =>
    rw [b64enc, emitB64e_append]
    exact (runCommands_b64e_group h b0 b1 b2 (message .b64e m)).trans (ih rfl)

end

/-- Settles O41: the NOPs drop out, and the message is encoded group by group. -/
theorem b64eRefinesB64enc : Obligations.B64eRefinesB64enc := by
  unfold Obligations.B64eRefinesB64enc
  intro s m is h hm
  rw [runCommands_of_presents hm]
  exact runCommands_message_b64e h m

end Sys2Proof.Machine

/-! PROOFS. O49: what the streams may hold (40_b64_encoder.md R108; 42_hex_encoder.md R155; 10_state.md
R30; 60_exceptions.md R181). -/

namespace Sys2Proof.Machine

/-- B64E emits characters of its alphabet only (40_b64_encoder.md R108). -/
theorem exec_b64e_emits {i : Instr} {s t : State} (h : exec i s = .next t) :
    ∃ vs, t.sinks.b64e_out = s.sinks.b64e_out ++ vs ∧ ∀ c ∈ vs, isB64Char c = true := by
  cases i with
  | b64eData a =>
    cases h
    split
    · exact ⟨[], by simp⟩
    · exact ⟨[], by simp⟩
    · exact ⟨_, rfl, chars24_isB64Char _ _ _⟩
  | b64eEnd =>
    cases h
    rw [State.setB64e_b64e_out]
    split
    · exact ⟨[], by simp⟩
    · exact ⟨_, rfl, chars8_isB64Char _⟩
    · exact ⟨_, rfl, chars16_isB64Char _ _⟩
  | b64eNop =>
    cases h
    exact ⟨[], by simp⟩
  | _ => exact ⟨[], by simp [(updatesOnly_of_exec_eq h).b64e_eq (by simp [Instr.unit])]⟩

/-- HEXE emits lower-case hex digits only (42_hex_encoder.md R155). -/
theorem exec_hexe_emits {i : Instr} {s t : State} (h : exec i s = .next t) :
    ∃ vs, t.sinks.hexe_out = s.sinks.hexe_out ++ vs ∧ ∀ c ∈ vs, isHexChar c = true := by
  cases i with
  | hexeData a =>
    cases h
    exact ⟨_, rfl, hexChars_isHexChar a⟩
  | hexeNop | hexeEnd =>
    cases h
    exact ⟨[], by simp⟩
  | _ => exact ⟨[], by simp [(updatesOnly_of_exec_eq h).hexe_eq (by simp [Instr.unit])]⟩

theorem inv_closeLastGroup {s : State} (h : s.b64d.Inv) : s.closeLastGroup.b64d.Inv := by
  rcases closeLastGroup_cases s with ⟨hf, -, he⟩ | ⟨-, he⟩ <;> rw [he]
  · exact B64D.inv_closeGroup h hf _ false
  · exact h

/-- The record of B64D's END takes flag and cause from registers that meet the invariant
(41_b64_decoder.md R134). -/
theorem exec_b64d_reports {i : Instr} {s t : State} (hinv : s.b64d.Inv) (h : exec i s = .next t) :
    ∃ rs, t.sinks.b64d_res = s.sinks.b64d_res ++ rs ∧
      ∀ r ∈ rs, r.Ok s.params.cntW ∧ r.cause ≠ .oddTrailing := by
  rcases exec_b64d_cases h with ⟨-, -, hres⟩ | ⟨a, -, -, rfl⟩ | ⟨-, rfl⟩
  · exact ⟨[], by simp [hres]⟩
  · exact ⟨[], by simp [b64dSymbol_b64d_res]⟩
  · obtain ⟨-, -, hfc, ho, -⟩ := inv_closeLastGroup hinv
    have hp : s.closeLastGroup.params = s.params := (UpdatesOnly.of_closeLastGroup s).params_eq
    refine ⟨_, by rw [State.setB64d_b64d_res, State.emitResultB64d_b64d_res, closeLastGroup_b64d_res], ?_⟩
    simp only [List.mem_singleton, forall_eq]
    exact ⟨⟨hfc, hp ▸ reportedCount_lt _ _ _⟩, ho⟩

/-- A leftover symbol is an error of HEXD's own, and flag and cause agree (43_hex_decoder.md R169). -/
theorem judgeEnd_status {r : HEXD} (h : r.Inv) :
    (r.judgeEnd.h_fail = false ↔ r.judgeEnd.h_cause = .none) ∧
      r.judgeEnd.h_cause ≠ .insufficientGroup := by
  obtain ⟨hfc, hi, -⟩ := h
  rcases judgeEnd_cases r with ⟨-, -, he⟩ | ⟨-, he⟩ <;> rw [he]
  · simp
  · exact ⟨hfc, hi⟩

theorem exec_hexd_reports {i : Instr} {s t : State} (hinv : s.hexd.Inv) (h : exec i s = .next t) :
    ∃ rs, t.sinks.hexd_res = s.sinks.hexd_res ++ rs ∧
      ∀ r ∈ rs, r.Ok s.params.cntW ∧ r.cause ≠ .insufficientGroup := by
  rcases exec_hexd_cases h with ⟨-, -, hres⟩ | ⟨a, -, -, ⟨-, rfl⟩ | ⟨-, rfl⟩⟩ | ⟨-, rfl⟩
  · exact ⟨[], by simp [hres]⟩
  · exact ⟨[], by simp [completePair_hexd_res]⟩
  · exact ⟨[], by simp⟩
  · obtain ⟨hfc, hi⟩ := judgeEnd_status hinv
    refine ⟨_, rfl, ?_⟩
    simp only [List.mem_singleton, forall_eq]
    exact ⟨⟨hfc, reportedCount_lt _ _ _⟩, hi⟩

/-- A stream that is continued by items of a kind keeps holding that kind. -/
theorem forall_mem_of_continued {α : Type} {P : α → Prop} {l l' : List α} (h : ∀ a ∈ l, P a)
    (hl : ∃ vs, l' = l ++ vs ∧ ∀ a ∈ vs, P a) : ∀ a ∈ l', P a := by
  obtain ⟨vs, rfl, hvs⟩ := hl
  exact List.forall_mem_append.2 ⟨h, hvs⟩

theorem exec_keeps_streamsInv {i : Instr} {s t : State} (hd : s.b64d.Inv) (hh : s.hexd.Inv)
    (h : s.StreamsInv) (he : exec i s = .next t) : t.StreamsInv := by
  obtain ⟨hb, hx, hdr, hhr⟩ := h
  have hp : t.params = s.params := (updatesOnly_of_exec_eq he).params_eq
  rw [State.StreamsInv, hp]
  exact ⟨forall_mem_of_continued hb (exec_b64e_emits he),
    forall_mem_of_continued hx (exec_hexe_emits he),
    forall_mem_of_continued hdr (exec_b64d_reports hd he),
    forall_mem_of_continued hhr (exec_hexd_reports hh he)⟩

/-- Settles O49: a step that executes a command continues each stream by items it may hold. -/
theorem stepKeepsStreamsInv : Obligations.StepKeepsStreamsInv := by
  unfold Obligations.StepKeepsStreamsInv
  intro s t hinv h hs
  obtain ⟨-, hd, hh⟩ := hinv
  rcases step_cases hs with rfl | ⟨rest, rfl⟩ | ⟨i, rest, he⟩
  · exact h
  · exact h
  · exact exec_keeps_streamsInv (s := s.setInput rest) hd hh h he

end Sys2Proof.Machine

/-! PROOFS. O31: the shape of B64ENC (40_b64_encoder.md R103, R108). -/

namespace Sys2Proof.Machine

/-- A full group is characters of the alphabet (40_b64_encoder.md R103). -/
theorem chars24_alpha64 (b0 b1 b2 : Sym) : ∀ c ∈ chars24 b0 b1 b2, ∃ v, alpha64 v = c := by
  simp [chars24]

/-- R108 (a). -/
theorem b64enc_length (m : List Sym) : (b64enc m).length = 4 * ((m.length + 2) / 3) := by
  induction m using b64enc.induct with
  | case1 => rfl
  | case2 b0 => simp [b64enc, chars8]
  | case3 b0 b1 => simp [b64enc, chars16]
  | case4 b0 b1 b2 m ih =>
    simp only [b64enc, List.length_append, ih, chars24, List.length_cons, List.length_nil]
    omega

/-- R108 (b), (c). -/
theorem b64enc_body_padding (m : List Sym) :
    ∃ body, b64enc m = body ++ List.replicate ((3 - m.length % 3) % 3) 0x3D#8 ∧
      ∀ c ∈ body, ∃ v, alpha64 v = c := by
  induction m using b64enc.induct with
  | case1 => exact ⟨[], rfl, by simp⟩
  | case2 b0 => exact ⟨[alpha64 _, alpha64 _], rfl, by simp⟩
  | case3 b0 b1 => exact ⟨[alpha64 _, alpha64 _, alpha64 _], rfl, by simp⟩
  | case4 b0 b1 b2 m ih =>
    obtain ⟨body, hm, hbody⟩ := ih
    have hmod : (b0 :: b1 :: b2 :: m).length % 3 = m.length % 3 := Nat.add_mod_right m.length 3
    refine ⟨chars24 b0 b1 b2 ++ body, ?_, List.forall_mem_append.2 ⟨chars24_alpha64 b0 b1 b2, hbody⟩⟩
    rw [hmod, b64enc, hm, List.append_assoc]

/-- R108 (d). -/
theorem b64enc_append (m t : List Sym) (h : m.length % 3 = 0) : b64enc (m ++ t) = b64enc m ++ b64enc t := by
  induction m using b64enc.induct with
  | case1 => rfl
  | case2 b0 => simp at h
  | case3 b0 b1 => simp at h
  | case4 b0 b1 b2 m ih =>
    have hm : m.length % 3 = 0 := (Nat.add_mod_right m.length 3).symm.trans h
    simp only [List.cons_append, b64enc, ih hm, List.append_assoc]

/-- Settles O31: each law by the recursion of `B64ENC`. -/
theorem b64encLengthAlphabetPaddingAndGroups : Obligations.B64encLengthAlphabetPaddingAndGroups := by
  unfold Obligations.B64encLengthAlphabetPaddingAndGroups
  intro m
  exact ⟨b64enc_length m, b64enc_body_padding m, fun t h => b64enc_append m t h⟩

end Sys2Proof.Machine

/-! PROOFS. O26, O27: the bits of a group (20_memory.md R56; 40_b64_encoder.md R100 to R102;
41_b64_decoder.md R123, R125). -/

namespace Sys2Proof.Machine

/-! ### A group's 24 bits as three bytes and as four digits (20_memory.md R56) -/

theorem field_toNat {w : Nat} (x : BitVec w) (lo n : Nat) :
    (x.extractLsb' lo n).toNat = x.toNat / 2 ^ lo % 2 ^ n := by
  rw [BitVec.extractLsb'_toNat, Nat.shiftRight_eq_div_pow]

theorem bytes_append (g : Group) :
    g.extractLsb' 16 8 ++ g.extractLsb' 8 8 ++ g.extractLsb' 0 8 = g := by
  apply BitVec.eq_of_toNat_eq
  simp only [toNat_append, field_toNat]
  omega

theorem digits_append (g : Group) :
    g.extractLsb' 18 6 ++ g.extractLsb' 12 6 ++ g.extractLsb' 6 6 ++ g.extractLsb' 0 6 = g := by
  apply BitVec.eq_of_toNat_eq
  simp only [toNat_append, field_toNat]
  omega

theorem bytes_inj {a0 a1 a2 b0 b1 b2 : Sym} (h : a0 ++ a1 ++ a2 = b0 ++ b1 ++ b2) :
    a0 = b0 ∧ a1 = b1 ∧ a2 = b2 := by
  simpa only [append_inj, and_assoc] using h

theorem digits_inj {c0 c1 c2 c3 d0 d1 d2 d3 : Sextet} (h : c0 ++ c1 ++ c2 ++ c3 = d0 ++ d1 ++ d2 ++ d3) :
    c0 = d0 ∧ c1 = d1 ∧ c2 = d2 ∧ c3 = d3 := by
  simpa only [append_inj, and_assoc] using h

/-- `EXTRACT` takes the bytes of a full group apart (41_b64_decoder.md R125). -/
theorem extractBytes_append (b0 b1 b2 : Sym) : extractBytes (b0 ++ b1 ++ b2) 3 = [b0, b1, b2] := by
  obtain ⟨h0, h1, h2⟩ := bytes_inj (bytes_append (b0 ++ b1 ++ b2))
  rw [extractBytes, h0, h1, h2]
  rfl

/-- The digits of a full group, accumulated, are the digits side by side (41_b64_decoder.md R123). -/
theorem accumAlpha_digits (c0 c1 c2 c3 : Sextet) :
    accumAlpha (accumAlpha (accumAlpha (accumAlpha 0#24 c0) c1) c2) c3 = c0 ++ c1 ++ c2 ++ c3 := by
  have h0 : (0#24 : Group).toNat < 2 ^ (6 * 0) := by decide
  have h1 := accumAlpha_lt _ c0 0 (by decide) h0
  have h2 := accumAlpha_lt _ c1 1 (by decide) h1
  have h3 := accumAlpha_lt _ c2 2 (by decide) h2
  apply BitVec.eq_of_toNat_eq
  rw [accumAlpha_toNat _ _ 3 (by decide) h3, accumAlpha_toNat _ _ 2 (by decide) h2,
    accumAlpha_toNat _ _ 1 (by decide) h1, accumAlpha_toNat _ _ 0 (by decide) h0]
  simp only [toNat_append, BitVec.toNat_ofNat]
  omega

/-! ### The repackers -/

/-- The digit values of a group are the four 6-bit fields of its 24 bits (R100). -/
theorem repack24_eq_fields (b0 b1 b2 : Sym) (g : Group) (hg : g = b0 ++ b1 ++ b2) :
    repack24 b0 b1 b2 =
      (g.extractLsb' 18 6, g.extractLsb' 12 6, g.extractLsb' 6 6, g.extractLsb' 0 6) := by
  subst hg
  simp only [repack24, Prod.mk.injEq, ← BitVec.toNat_inj, field_toNat, toNat_append]
  omega

theorem repack24_append (b0 b1 b2 : Sym) :
    (repack24 b0 b1 b2).1 ++ (repack24 b0 b1 b2).2.1 ++ (repack24 b0 b1 b2).2.2.1 ++
      (repack24 b0 b1 b2).2.2.2 = b0 ++ b1 ++ b2 := by
  rw [repack24_eq_fields b0 b1 b2 _ rfl]
  exact digits_append (b0 ++ b1 ++ b2)

/-- Bytes and digits are fields of the same 24 bits, which determine both (R100). -/
theorem repack24_bijective :
    Function.Bijective (fun b : Sym × Sym × Sym => repack24 b.1 b.2.1 b.2.2) := by
  constructor
  · rintro ⟨a0, a1, a2⟩ ⟨b0, b1, b2⟩ (h : repack24 a0 a1 a2 = repack24 b0 b1 b2)
    have hg : a0 ++ a1 ++ a2 = b0 ++ b1 ++ b2 := by rw [← repack24_append, h, repack24_append]
    obtain ⟨rfl, rfl, rfl⟩ := bytes_inj hg
    rfl
  · rintro ⟨c0, c1, c2, c3⟩
    have hg := (repack24_append _ _ _).trans (bytes_append (c0 ++ c1 ++ c2 ++ c3))
    obtain ⟨h0, h1, h2, h3⟩ := digits_inj hg
    exact ⟨(_, _, _), Prod.ext h0 (Prod.ext h1 (Prod.ext h2 h3))⟩

/-- Settles O26: bytes and digits are fields of the same 24 bits, and accumulating joins the digits. -/
theorem repack24RegroupsTheBits : Obligations.Repack24RegroupsTheBits := by
  unfold Obligations.Repack24RegroupsTheBits
  refine ⟨repack24_append, repack24_bijective, fun b0 b1 b2 => ?_⟩
  have h := (accumAlpha_digits _ _ _ _).trans (repack24_append b0 b1 b2)
  exact (congrArg (extractBytes · 3) h).trans (extractBytes_append b0 b1 b2)

/-- Settles O27: the bits of a missing byte are zero in every field. -/
theorem remaindersAreZeroExtendedGroups : Obligations.RemaindersAreZeroExtendedGroups := by
  unfold Obligations.RemaindersAreZeroExtendedGroups
  intro b0 b1
  exact ⟨rfl, rfl⟩

end Sys2Proof.Machine

/-! PROOFS. O15, O16: DATA and END of B64E in the spec's terms (40_b64_encoder.md R101, R102, R105, R106). -/

namespace Sys2Proof.Machine

/-! ### The remainders in their shift and mask form (R101, R102) -/

theorem append_eq_ofNat {m n : Nat} (a : BitVec m) (b : BitVec n) :
    a ++ b = BitVec.ofNat (m + n) (a.toNat <<< n ||| b.toNat) := by
  rw [← BitVec.toNat_append, BitVec.ofNat_toNat, BitVec.setWidth_eq]

/-- The low bits of a value, by a mask. -/
theorem lowField_toNat {w : Nat} (x : BitVec w) (n : Nat) :
    (x.extractLsb' 0 n).toNat = x.toNat &&& (2 ^ n - 1) := by
  rw [field_toNat, Nat.and_two_pow_sub_one_eq_mod, Nat.pow_zero, Nat.div_one]

/-- The high bits of a value, by a shift. -/
theorem highField_toNat {m n : Nat} (x : BitVec (m + n)) :
    (x.extractLsb' n m).toNat = x.toNat >>> n := by
  have hx : x.toNat < 2 ^ n * 2 ^ m := by simpa only [Nat.pow_add, Nat.mul_comm] using x.isLt
  rw [field_toNat, Nat.shiftRight_eq_div_pow, Nat.mod_eq_of_lt (Nat.div_lt_of_lt_mul hx)]

theorem repack8_eq_shifts (b0 : Sym) :
    repack8 b0 = (BitVec.ofNat 6 (b0.toNat >>> 2), BitVec.ofNat 6 ((b0.toNat &&& 3) <<< 4)) := by
  rw [repack8, append_eq_ofNat, lowField_toNat, BitVec.toNat_zero, Nat.or_zero]
  rfl

theorem repack16_eq_shifts (b0 b1 : Sym) :
    repack16 b0 b1 = (BitVec.ofNat 6 (b0.toNat >>> 2),
      BitVec.ofNat 6 (((b0.toNat &&& 3) <<< 4) ||| (b1.toNat >>> 4)),
      BitVec.ofNat 6 ((b1.toNat &&& 15) <<< 2)) := by
  rw [repack16, append_eq_ofNat, append_eq_ofNat, lowField_toNat, lowField_toNat,
    highField_toNat (m := 4), BitVec.toNat_zero, Nat.or_zero]
  rfl

/-! ### DATA and END -/

/-- The characters of a full group are looked up by the fields of its 24 bits (20_memory.md R56). -/
theorem chars24_eq_fields (b0 b1 b2 : Sym) (g : Group) (hg : g = b0 ++ b1 ++ b2) :
    chars24 b0 b1 b2 = [alpha64 (g.extractLsb' 18 6), alpha64 (g.extractLsb' 12 6),
      alpha64 (g.extractLsb' 6 6), alpha64 (g.extractLsb' 0 6)] := by
  rw [chars24, repack24_eq_fields b0 b1 b2 g hg]

/-- Settles O15: DATA phase by phase, and the third byte's characters by the fields of the group. -/
theorem b64eDataHoldsThenEmits : Obligations.B64eDataHoldsThenEmits := by
  unfold Obligations.B64eDataHoldsThenEmits
  intro s a
  refine ⟨decodeCmd_pattern _ .b64e .data a rfl, fun h => exec_b64eData_phase0 h a,
    fun h => exec_b64eData_phase1 h a, fun h => ?_⟩
  rw [exec_b64eData_phase2 h a, chars24_eq_fields _ _ _ _ rfl]
  rfl

/-- `e_phase` has three values (10_state.md R22). -/
theorem phase_cases : ∀ p : Fin 3, p = 0 ∨ p = 1 ∨ p = 2 := by decide

/-- Settles O16: END phase by phase, with the remainder's digits in their shift and mask form. -/
theorem b64eEndPadsTheRemainder : Obligations.B64eEndPadsTheRemainder := by
  unfold Obligations.B64eEndPadsTheRemainder
  intro s x
  refine ⟨decodeCmd_pattern _ .b64e .fin x rfl, ?_⟩
  rcases phase_cases s.b64e.e_phase with h | h | h
  · rw [exec_b64eEnd_phase0 h, ← emitB64e_nil (s.setB64e .reset), h]
    rfl
  · rw [exec_b64eEnd_phase1 h, chars8, repack8_eq_shifts, h]
    rfl
  · rw [exec_b64eEnd_phase2 h, chars16, repack16_eq_shifts, h]
    rfl

end Sys2Proof.Machine

/-! PROOFS. O24: the base64 classifier and its alphabet (20_memory.md R52, R53; 41_b64_decoder.md R137). -/

namespace Sys2Proof.Machine

theorem class64_eq_ws_iff (c : Sym) :
    class64 c = .ws ↔ c = 0x20#8 ∨ c = 0x09#8 ∨ c = 0x0A#8 ∨ c = 0x0D#8 := by
  unfold class64
  split
  · next h => simp [h]
  · next h =>
    rw [iff_false_right h]
    repeat' split
    all_goals simp

theorem class64_eq_pad_iff (c : Sym) : class64 c = .pad ↔ c = padChar := by
  refine ⟨fun h => ?_, fun h => h ▸ class64_padChar⟩
  by_contra hc
  unfold class64 at h
  rw [if_neg hc] at h
  repeat' split at h
  all_goals cases h

/-- The code of a character, range by range (20_memory.md R52). -/
theorem alpha64_toNat : ∀ v : Sextet, (alpha64 v).toNat =
    if v.toNat ≤ 25 then 0x41 + v.toNat
    else if v.toNat ≤ 51 then 0x61 + (v.toNat - 26)
    else if v.toNat ≤ 61 then 0x30 + (v.toNat - 52)
    else if v.toNat = 62 then 0x2B else 0x2F := by decide

/-- A character's place in its range of codes is its value (20_memory.md R53). -/
theorem alpha64_of_class64 {c : Sym} {v : Sextet} (h : class64 c = .alpha v) : alpha64 v = c := by
  rw [← BitVec.toNat_inj, alpha64_toNat]
  unfold class64 at h
  repeat' split at h
  all_goals
    simp only [Class64.alpha.injEq, reduceCtorEq, ← BitVec.toNat_inj, BitVec.toNat_ofNat] at *
  all_goals split_ifs <;> omega

theorem class64_eq_alpha_iff (c : Sym) (v : Sextet) : class64 c = .alpha v ↔ alpha64 v = c :=
  ⟨alpha64_of_class64, fun h => h ▸ class64_alpha64 v⟩

/-- The scan finds the one index of `c`, since the entries are pairwise different (R137). -/
theorem scanAlpha64_eq_some_iff (c : Sym) (v : Sextet) : scanAlpha64 c = some v ↔ alpha64 v = c := by
  have hfound : ∀ w, scanAlpha64 c = some w → alpha64 w = c := fun w h => by
    simpa using List.find?_some h
  refine ⟨hfound v, fun h => ?_⟩
  have hmem : v ∈ (List.range 64).map (BitVec.ofNat 6) :=
    List.mem_map.2 ⟨v.toNat, List.mem_range.2 v.isLt, by simp⟩
  have hsome : (scanAlpha64 c).isSome = true := List.find?_isSome.2 ⟨v, hmem, by simp [h]⟩
  obtain ⟨w, hw⟩ := Option.isSome_iff_exists.1 hsome
  have hwv : Class64.alpha w = .alpha v :=
    ((class64_eq_alpha_iff c w).2 (hfound w hw)).symm.trans ((class64_eq_alpha_iff c v).2 h)
  rw [hw, Class64.alpha.inj hwv]

/-- Settles O24: classifier and scan both give the value whose entry of the alphabet is the symbol. -/
theorem classifierInvertsTheAlphabet : Obligations.ClassifierInvertsTheAlphabet := by
  unfold Obligations.ClassifierInvertsTheAlphabet
  intro c
  refine ⟨class64_eq_alpha_iff c, ?_, by simp [class64_eq_ws_iff], class64_eq_pad_iff c⟩
  have hnone : (∀ v, class64 c ≠ .alpha v) → scanAlpha64 c = none := fun h =>
    Option.eq_none_iff_forall_ne_some.2 fun v hv =>
      h v ((class64_eq_alpha_iff c v).2 ((scanAlpha64_eq_some_iff c v).1 hv))
  cases hc : class64 c with
  | alpha v => exact (scanAlpha64_eq_some_iff c v).2 (alpha64_of_class64 hc)
  | ws | pad | invalid => exact hnone (by simp [hc])

end Sys2Proof.Machine

/-! PROOFS. The parts of B64DEC: the groups of a text and what one group gives (41_b64_decoder.md R121 to
R127, R130). -/

namespace Sys2Proof.Machine

/-! ### A group of symbols (R123) -/

/-- A symbol that `ACCUM` takes in: padding or a character of the alphabet (R123). -/
def Accumulated (c : Sym) : Prop := class64 c ≠ .ws ∧ class64 c ≠ .invalid

theorem Accumulated.cases {c : Sym} (h : Accumulated c) :
    class64 c = .pad ∨ ∃ x, class64 c = .alpha x := by
  obtain ⟨hws, hinv⟩ := h
  cases hc : class64 c with
  | ws => exact absurd hc hws
  | invalid => exact absurd hc hinv
  | pad => exact .inl rfl
  | alpha x => exact .inr ⟨x, rfl⟩

section
variable {acc : Group} {k v : Nat} {c : Sym} {cs : List Sym}

theorem accumGroup_cons_pad (h : class64 c = .pad) :
    accumGroup acc k v (c :: cs) = accumGroup (accumPad acc) (k + 1) v cs := by
  simp only [accumGroup, h]

theorem accumGroup_cons_alpha {x : Sextet} (h : class64 c = .alpha x) :
    accumGroup acc k v (c :: cs) = accumGroup (accumAlpha acc x) (k + 1) (v + 1) cs := by
  simp only [accumGroup, h]

theorem accumGroup_cons_invalid (h : class64 c = .invalid) :
    accumGroup acc k v (c :: cs) = ⟨acc, k, v, true⟩ := by
  simp only [accumGroup, h]

theorem accumGroup_cons_ws (h : class64 c = .ws) :
    accumGroup acc k v (c :: cs) = accumGroup acc k v cs := by
  simp only [accumGroup, h]

end

/-- After an invalid symbol nothing of the group is examined (R123, R128). -/
theorem accumGroup_append_of_bad {p : List Sym} (q : List Sym) (acc : Group) (k v : Nat)
    (h : (accumGroup acc k v p).bad = true) : accumGroup acc k v (p ++ q) = accumGroup acc k v p := by
  induction p generalizing acc k v with
  | nil => cases h
  | cons c p ih =>
    rw [List.cons_append]
    cases hc : class64 c with
    | ws =>
      rw [accumGroup_cons_ws hc] at h ⊢
      rw [accumGroup_cons_ws hc, ih _ _ _ h]
    | pad =>
      rw [accumGroup_cons_pad hc] at h ⊢
      rw [accumGroup_cons_pad hc, ih _ _ _ h]
    | alpha x =>
      rw [accumGroup_cons_alpha hc] at h ⊢
      rw [accumGroup_cons_alpha hc, ih _ _ _ h]
    | invalid => rw [accumGroup_cons_invalid hc, accumGroup_cons_invalid hc]

/-- Accumulated symbols leave a group that the next symbols continue (R123). -/
theorem accumGroup_append {p : List Sym} (hp : ∀ c ∈ p, Accumulated c) (q : List Sym) (acc : Group)
    (k v : Nat) :
    accumGroup acc k v (p ++ q) =
      accumGroup (accumGroup acc k v p).acc (accumGroup acc k v p).k (accumGroup acc k v p).v q := by
  induction p generalizing acc k v with
  | nil => rfl
  | cons c p ih =>
    obtain ⟨hc, hp⟩ := List.forall_mem_cons.1 hp
    rw [List.cons_append]
    rcases hc.cases with hc | ⟨x, hc⟩
    · rw [accumGroup_cons_pad hc, accumGroup_cons_pad hc, ih hp]
    · rw [accumGroup_cons_alpha hc, accumGroup_cons_alpha hc, ih hp]

/-- Accumulated symbols are all counted, and those that are no padding are valid (R123). -/
theorem accumGroup_accumulated {p : List Sym} (hp : ∀ c ∈ p, Accumulated c) (acc : Group) (k v : Nat) :
    (accumGroup acc k v p).k = k + p.length ∧
      (accumGroup acc k v p).v = v + p.countP (fun c => class64 c != .pad) ∧
      (accumGroup acc k v p).bad = false := by
  induction p generalizing acc k v with
  | nil => exact ⟨rfl, rfl, rfl⟩
  | cons c p ih =>
    obtain ⟨hc, hp⟩ := List.forall_mem_cons.1 hp
    rcases hc.cases with hc | ⟨x, hc⟩
    · obtain ⟨hk, hv, hbad⟩ := ih hp (accumPad acc) (k + 1) v
      rw [accumGroup_cons_pad hc, hk, hv, List.countP_cons_of_neg (by simp [hc]), List.length_cons]
      exact ⟨by omega, rfl, hbad⟩
    · obtain ⟨hk, hv, hbad⟩ := ih hp (accumAlpha acc x) (k + 1) (v + 1)
      rw [accumGroup_cons_alpha hc, hk, hv, List.countP_cons_of_pos (by simp [hc]), List.length_cons]
      exact ⟨by omega, by omega, hbad⟩

/-- What accumulation makes of a group from its start (R123). -/
def groupState (g : List Sym) : GroupState := accumGroup 0#24 0 0 g

theorem groupState_of_accumulated {g : List Sym} (h : ∀ c ∈ g, Accumulated c) :
    (groupState g).k = g.length ∧ (groupState g).v = g.countP (fun c => class64 c != .pad) ∧
      (groupState g).bad = false := by
  simpa only [groupState, Nat.zero_add] using accumGroup_accumulated h 0#24 0 0

/-- The bytes a group emits when it closes (R124 to R126). -/
def groupBytes (justify : Bool) (g : List Sym) : List Sym :=
  extractBytes (justifyAcc justify (groupState g).acc (groupState g).k) (byteCount (groupState g).v)

/-- The cause of the error a group is in, if any (R127). -/
def groupFault (g : List Sym) : Option Cause := groupError (groupState g).v (groupState g).bad

theorem groupBytes_length (j : Bool) (g : List Sym) :
    (groupBytes j g).length = byteCount (groupState g).v := extractBytes_length _ _

/-! ### The groups of a text (R121, R122) -/

theorem strip_append (t u : List Sym) : strip (t ++ u) = strip t ++ strip u := List.filter_append t u

theorem strip_cons_ws {c : Sym} (h : class64 c = .ws) (t : List Sym) : strip (c :: t) = strip t :=
  List.filter_cons_of_neg (by simp [h])

theorem strip_cons_of_ne {c : Sym} (h : class64 c ≠ .ws) (t : List Sym) :
    strip (c :: t) = c :: strip t := List.filter_cons_of_pos (by simpa using h)

theorem strip_eq_self {t : List Sym} (h : ∀ c ∈ t, class64 c ≠ .ws) : strip t = t :=
  List.filter_eq_self.2 fun c hc => by simpa using h c hc

theorem strip_strip (t : List Sym) : strip (strip t) = strip t := by
  simp only [strip, List.filter_filter, Bool.and_self]

/-- A text without invalid symbols is stripped to symbols that are accumulated. -/
theorem accumulated_of_mem_strip {t : List Sym} (h : ∀ c ∈ t, class64 c ≠ .invalid) :
    ∀ c ∈ strip t, Accumulated c := fun c hc => by
  obtain ⟨hmem, hws⟩ := List.mem_filter.1 hc
  exact ⟨by simpa using hws, h c hmem⟩

/-- The first group is the first four symbols, or all there are (R122). -/
theorem groups4_of_ne_nil {t : List Sym} (h : t ≠ []) : groups4 t = t.take 4 :: groups4 (t.drop 4) := by
  cases t using groups4.fun_cases with
  | case1 => exact absurd rfl h
  | case2 | case3 | case4 | case5 => rfl

/-- A group of at most four symbols is filled from what follows it. -/
theorem groups4_append {g : List Sym} (h : g ≠ []) (hg : g.length ≤ 4) (t : List Sym) :
    groups4 (g ++ t) = (g ++ t.take (4 - g.length)) :: groups4 (t.drop (4 - g.length)) := by
  rw [groups4_of_ne_nil (List.append_ne_nil_of_left_ne_nil h t), List.take_append, List.drop_append,
    List.take_of_length_le hg, List.drop_of_length_le hg, List.nil_append]

theorem groups4_append_of_whole {t : List Sym} (h : t.length % 4 = 0) (u : List Sym) :
    groups4 (t ++ u) = groups4 t ++ groups4 u := by
  induction t using groups4.induct with
  | case1 => rfl
  | case2 | case3 | case4 => simp at h
  | case5 a b c d t ih =>
    have ht : t.length % 4 = 0 := (Nat.add_mod_right t.length 4).symm.trans h
    simp only [List.cons_append, groups4, ih ht]

theorem groups4_flatten (t : List Sym) : (groups4 t).flatten = t := by
  induction t using groups4.induct with
  | case1 | case2 | case3 | case4 => rfl
  | case5 a b c d t ih => simp [groups4, ih]

theorem mem_of_mem_groups4 {t g : List Sym} (h : g ∈ groups4 t) {c : Sym} (hc : c ∈ g) : c ∈ t :=
  groups4_flatten t ▸ List.mem_flatten.2 ⟨g, h, hc⟩

theorem length_of_mem_groups4 {t : List Sym} (ht : t.length % 4 = 0) : ∀ g ∈ groups4 t, g.length = 4 := by
  induction t using groups4.induct with
  | case1 => simp [groups4]
  | case2 | case3 | case4 => simp at ht
  | case5 a b c d t ih =>
    have ht' : t.length % 4 = 0 := (Nat.add_mod_right t.length 4).symm.trans ht
    exact List.forall_mem_cons.2 ⟨rfl, ih ht'⟩

/-! ### The decode, group by group (R130) -/

/-- A group is in no error, malformed, or short of valid symbols (R127; 60_exceptions.md R187). -/
theorem groupFault_cases (g : List Sym) :
    groupFault g = none ∨
      (groupFault g = some .malformedChar ∧ (groupState g).bad = true) ∨
      (groupFault g = some .insufficientGroup ∧ (groupState g).bad = false) := by
  rcases groupError_cases (groupState g).v (groupState g).bad with ⟨h, -⟩ | h | ⟨h, hb, -⟩
  · exact .inl h
  · exact .inr (.inl h)
  · exact .inr (.inr ⟨h, hb⟩)

section
variable {j : Bool} {g : List Sym}

theorem b64decGroups_cons_of_fault {c : Cause} (h : groupFault g = some c) (out : List Sym) (n : Nat)
    (gs : List (List Sym)) : b64decGroups j out n (g :: gs) =
      ⟨out ++ groupBytes j g, ⟨true, c, n + byteCount (groupState g).v⟩⟩ := by
  rcases groupError_cases (groupState g).v (groupState g).bad with ⟨he, -⟩ | ⟨he, hb⟩ | ⟨he, hb, hv⟩
  · cases h.symm.trans he
  · cases h.symm.trans he
    exact if_pos hb
  · cases h.symm.trans he
    exact (if_neg (ne_true_of_eq_false hb)).trans (if_pos hv)

theorem b64decGroups_cons_of_ok (h : groupFault g = none) (out : List Sym) (n : Nat)
    (gs : List (List Sym)) : b64decGroups j out n (g :: gs) =
      b64decGroups j (out ++ groupBytes j g) (n + byteCount (groupState g).v) gs := by
  rcases groupError_cases (groupState g).v (groupState g).bad with ⟨-, hb, hv⟩ | ⟨he, -⟩ | ⟨he, -⟩
  · exact (if_neg (ne_true_of_eq_false hb)).trans (if_neg (Nat.not_lt.2 hv))
  · cases h.symm.trans he
  · cases h.symm.trans he

end

/-- The bytes of the groups join those before them. -/
theorem b64decGroups_append_out (j : Bool) (gs : List (List Sym)) (out : List Sym) (n : Nat) :
    b64decGroups j out n gs = ⟨out ++ (b64decGroups j [] n gs).out, (b64decGroups j [] n gs).result⟩ := by
  induction gs generalizing out n with
  | nil => simp only [b64decGroups, List.append_nil]
  | cons g gs ih =>
    cases h : groupFault g with
    | some c => simp only [b64decGroups_cons_of_fault h, List.nil_append]
    | none =>
      simp only [b64decGroups_cons_of_ok h, List.nil_append]
      rw [ih, ih (groupBytes j g), List.append_assoc]

end Sys2Proof.Machine

/-! PROOFS. O32, O33: decoding an encoding (41_b64_decoder.md R136; 40_b64_encoder.md R103). -/

namespace Sys2Proof.Machine

/-! ### The groups of an encoding are whole and in no error -/

/-- Characters of a digit are accumulated as the digit (40_b64_encoder.md R103). -/
theorem accumGroup_cons_alpha64 (acc : Group) (k v : Nat) (x : Sextet) (cs : List Sym) :
    accumGroup acc k v (alpha64 x :: cs) = accumGroup (accumAlpha acc x) (k + 1) (v + 1) cs :=
  accumGroup_cons_alpha (class64_alpha64 x)

/-- Padding is accumulated as a digit zero that is not valid (41_b64_decoder.md R123). -/
theorem accumGroup_cons_padChar (acc : Group) (k v : Nat) (cs : List Sym) :
    accumGroup acc k v (padChar :: cs) = accumGroup (accumAlpha acc 0#6) (k + 1) v cs := by
  rw [accumGroup_cons_pad class64_padChar, accumAlpha_zero]

theorem groupState_chars24 (b0 b1 b2 : Sym) :
    groupState (chars24 b0 b1 b2) = ⟨b0 ++ b1 ++ b2, 4, 4, false⟩ := by
  rw [groupState, chars24]
  simp only [accumGroup_cons_alpha64, accumAlpha_digits]
  rw [accumGroup, ← repack24_append b0 b1 b2]

theorem groupState_chars16 (b0 b1 : Sym) :
    groupState (chars16 b0 b1) = ⟨b0 ++ b1 ++ 0#8, 4, 3, false⟩ := by
  rw [groupState, chars16]
  simp only [accumGroup_cons_alpha64, accumGroup_cons_padChar, accumAlpha_digits]
  rw [accumGroup, ← repack24_append b0 b1 0#8]
  rfl

theorem groupState_chars8 (b0 : Sym) :
    groupState (chars8 b0) = ⟨b0 ++ 0#8 ++ 0#8, 4, 2, false⟩ := by
  rw [groupState, chars8]
  simp only [accumGroup_cons_alpha64, accumGroup_cons_padChar, accumAlpha_digits]
  rw [accumGroup, ← repack24_append b0 0#8 0#8]
  rfl

/-- A group of four symbols is not justified (41_b64_decoder.md R126). -/
theorem justifyAcc_four (j : Bool) (acc : Group) : justifyAcc j acc 4 = acc := by
  cases j <;> simp [justifyAcc]

/-- A whole group of `v` digits decodes to the first `v - 1` bytes of its 24 bits (R124, R125). -/
theorem b64decGroups_cons_of_groupState {g : List Sym} {b0 b1 b2 : Sym} {v : Nat}
    (hg : groupState g = ⟨b0 ++ b1 ++ b2, 4, v, false⟩) (h2 : 2 ≤ v) (h4 : v ≤ 4) (j : Bool)
    (out : List Sym) (n : Nat) (gs : List (List Sym)) :
    b64decGroups j out n (g :: gs) =
      b64decGroups j (out ++ [b0, b1, b2].take (v - 1)) (n + (v - 1)) gs := by
  have hfault : groupFault g = none := by
    rw [groupFault, hg]
    exact if_neg (Nat.not_lt.2 h2)
  have hbytes : groupBytes j g = [b0, b1, b2].take (v - 1) := by
    rw [groupBytes, hg, justifyAcc_four, byteCount_eq v h4, ← extractBytes_append]
    rfl
  rw [b64decGroups_cons_of_ok hfault, hbytes, hg, byteCount_eq v h4]

/-- The groups of an encoding decode to its bytes, by the recursion of `B64ENC` (R103, R130). -/
theorem b64decGroups_b64enc (j : Bool) (m out : List Sym) (n : Nat) :
    b64decGroups j out n (groups4 (b64enc m)) = ⟨out ++ m, ⟨false, .none, n + m.length⟩⟩ := by
  induction m using b64enc.induct generalizing out n with
  | case1 => simp [b64enc, groups4, b64decGroups]
  | case2 b0 =>
    exact b64decGroups_cons_of_groupState (groupState_chars8 b0) (by decide) (by decide) j out n []
  | case3 b0 b1 =>
    exact b64decGroups_cons_of_groupState (groupState_chars16 b0 b1) (by decide) (by decide) j out n []
  | case4 b0 b1 b2 m ih =>
    have hgroups : groups4 (b64enc (b0 :: b1 :: b2 :: m)) = chars24 b0 b1 b2 :: groups4 (b64enc m) := rfl
    rw [hgroups, b64decGroups_cons_of_groupState (groupState_chars24 b0 b1 b2) (by decide) (by decide), ih,
      List.append_assoc, Nat.add_assoc, Nat.add_comm (4 - 1)]
    rfl

/-- An encoding is characters of the alphabet and padding, so nothing is stripped of it
(40_b64_encoder.md R108). -/
theorem strip_b64enc (m : List Sym) : strip (b64enc m) = b64enc m := by
  obtain ⟨body, hm, hbody⟩ := b64enc_body_padding m
  refine strip_eq_self fun c hc => ?_
  rw [hm] at hc
  rcases List.mem_append.1 hc with hc | hc
  · obtain ⟨v, rfl⟩ := hbody c hc
    simp [class64_alpha64]
  · rw [List.eq_of_mem_replicate hc]
    decide

theorem b64dec_b64enc (j : Bool) (m : List Sym) :
    b64dec j (b64enc m) = ⟨m, ⟨false, .none, m.length⟩⟩ := by
  rw [b64dec, strip_b64enc, b64decGroups_b64enc, List.nil_append, Nat.zero_add]

/-- Settles O32: nothing is stripped, and each group of an encoding gives back its bytes. -/
theorem b64RoundTrip : Obligations.B64RoundTrip := b64dec_b64enc

/-- Settles O33: a text decodes as its stripped form, and that is an encoding. -/
theorem b64EncodeOfDecode : Obligations.B64EncodeOfDecode := by
  unfold Obligations.B64EncodeOfDecode
  rintro j x ⟨m, hm⟩
  have hx : b64dec j x = ⟨m, ⟨false, .none, m.length⟩⟩ := by
    rw [← b64dec_b64enc j m, ← hm, b64dec, b64dec, strip_strip]
  rw [hx, hm]
  exact ⟨rfl, rfl⟩

end Sys2Proof.Machine

/-! PROOFS. O34 to O37: what B64DEC reports, and what it does not look at (41_b64_decoder.md R126 to R128,
R130, R131). -/

namespace Sys2Proof.Machine

/-! ### O35: count, fail and cause (R130; 43_hex_decoder.md R166; 60_exceptions.md R181) -/

/-- What every decode reports: it counts its output, and flag and cause agree (R130, R166). -/
def Decoded.Reports (d : Decoded) : Prop :=
  d.result.count = d.out.length ∧ (d.result.fail = false ↔ d.result.cause = .none)

theorem b64decGroups_reports (j : Bool) (gs : List (List Sym)) {out : List Sym} {n : Nat}
    (h : n = out.length) : (b64decGroups j out n gs).Reports ∧
      (b64decGroups j out n gs).result.cause ≠ .oddTrailing := by
  induction gs generalizing out n with
  | nil => simp [b64decGroups, Decoded.Reports, h]
  | cons g gs ih =>
    have hn : n + byteCount (groupState g).v = (out ++ groupBytes j g).length := by
      rw [List.length_append, groupBytes_length, h]
    rcases groupFault_cases g with hg | ⟨hg, -⟩ | ⟨hg, -⟩
    · rw [b64decGroups_cons_of_ok hg]
      exact ih hn
    · rw [b64decGroups_cons_of_fault hg]
      exact ⟨⟨hn, by simp⟩, by simp⟩
    · rw [b64decGroups_cons_of_fault hg]
      exact ⟨⟨hn, by simp⟩, by simp⟩

theorem hexdecPairs_reports (t : List Sym) {out : List Sym} {n : Nat} (h : n = out.length) :
    (hexdecPairs out n t).Reports ∧ (hexdecPairs out n t).result.cause ≠ .insufficientGroup := by
  induction out, n, t using hexdecPairs.induct with
  | case1 out n => simp [hexdecPairs, Decoded.Reports, h]
  | case2 out n c => simp [hexdecPairs, Decoded.Reports, h]
  | case3 out n a b t hi lo ha hb ih =>
    simp only [hexdecPairs, ha, hb]
    exact ih (by simp [h])
  | case4 out n a b t hbad =>
    rw [hexdecPairs]
    split
    · next hi lo ha hb => exact absurd hb (hbad hi lo ha)
    · exact ⟨⟨h, by simp⟩, by simp⟩

/-- The count of a decode is the number of bytes it gives (R130). -/
theorem b64dec_count (j : Bool) (t : List Sym) :
    (b64dec j t).result.count = (b64dec j t).out.length := by
  obtain ⟨⟨hcount, -⟩, -⟩ := b64decGroups_reports j (groups4 (strip t)) (out := []) rfl
  exact hcount

/-- Settles O35: both reference functions, group by group and pair by pair. -/
theorem decodersCountTheirOutput : Obligations.DecodersCountTheirOutput := by
  unfold Obligations.DecodersCountTheirOutput
  intro j t
  obtain ⟨⟨hcount, hcause⟩, hown⟩ := b64decGroups_reports j (groups4 (strip t)) (out := []) rfl
  obtain ⟨⟨hcount', hcause'⟩, hown'⟩ := hexdecPairs_reports t (out := []) rfl
  exact ⟨hcount, hcause, hown, hcount', hcause', hown'⟩

/-! ### O34: justification (R126) -/

/-- The record does not depend on the bytes of the groups (R126). -/
theorem b64decGroups_result (j k : Bool) (gs : List (List Sym)) (out out' : List Sym) (n : Nat) :
    (b64decGroups j out n gs).result = (b64decGroups k out' n gs).result := by
  induction gs generalizing out out' n with
  | nil => rfl
  | cons g gs ih =>
    cases h : groupFault g with
    | some c => rw [b64decGroups_cons_of_fault h, b64decGroups_cons_of_fault h]
    | none =>
      rw [b64decGroups_cons_of_ok h, b64decGroups_cons_of_ok h]
      exact ih _ _ _

/-- A group of four accumulated symbols has its first byte at the top of the accumulator (R126). -/
theorem groupBytes_eq_of_whole {g : List Sym} (hg : ∀ c ∈ g, Accumulated c) (h4 : g.length = 4) (j k : Bool) :
    groupBytes j g = groupBytes k g := by
  obtain ⟨hk, -, -⟩ := groupState_of_accumulated hg
  rw [groupBytes, groupBytes, hk, h4, justifyAcc_four, justifyAcc_four]

theorem b64decGroups_eq_of_whole {gs : List (List Sym)}
    (h : ∀ g ∈ gs, (∀ c ∈ g, Accumulated c) ∧ g.length = 4) (j k : Bool) (out : List Sym) (n : Nat) :
    b64decGroups j out n gs = b64decGroups k out n gs := by
  induction gs generalizing out n with
  | nil => rfl
  | cons g gs ih =>
    obtain ⟨⟨hacc, h4⟩, h⟩ := List.forall_mem_cons.1 h
    have hbytes := groupBytes_eq_of_whole hacc h4 j k
    cases hf : groupFault g with
    | some c => rw [b64decGroups_cons_of_fault hf, b64decGroups_cons_of_fault hf, hbytes]
    | none => rw [b64decGroups_cons_of_ok hf, b64decGroups_cons_of_ok hf, hbytes, ih h]

/-- Groups that follow only add to the output, or are not reached (R130). -/
theorem b64decGroups_out_prefix (j : Bool) (gs hs : List (List Sym)) (out : List Sym) (n : Nat) :
    (b64decGroups j out n gs).out <+: (b64decGroups j out n (gs ++ hs)).out := by
  induction gs generalizing out n with
  | nil =>
    rw [List.nil_append, b64decGroups_append_out j hs]
    exact List.prefix_append _ _
  | cons g gs ih =>
    rw [List.cons_append]
    cases hf : groupFault g with
    | some c => rw [b64decGroups_cons_of_fault hf, b64decGroups_cons_of_fault hf]
    | none =>
      rw [b64decGroups_cons_of_ok hf, b64decGroups_cons_of_ok hf]
      exact ih _ _

/-- Settles O34: the record never depends on the bytes, and the groups of a whole text are not justified. -/
theorem justifyChangesOnlyBytesOfShortGroups : Obligations.JustifyChangesOnlyBytesOfShortGroups := by
  unfold Obligations.JustifyChangesOnlyBytesOfShortGroups
  have hresult : ∀ t : List Sym, (b64dec true t).result = (b64dec false t).result := fun t =>
    b64decGroups_result true false (groups4 (strip t)) [] [] 0
  refine ⟨fun t => ⟨hresult t, ?_⟩, fun t hlen hinv => ?_⟩
  · rw [← b64dec_count, ← b64dec_count, hresult]
  · have heq (j k : Bool) : b64dec j t = b64dec k t :=
      b64decGroups_eq_of_whole (fun g hg => ⟨fun c hc =>
        accumulated_of_mem_strip hinv c (mem_of_mem_groups4 hg hc), length_of_mem_groups4 hlen g hg⟩) j k [] 0
    refine ⟨heq true false, fun j k u => ?_⟩
    rw [heq j k, b64dec, b64dec, strip_append, groups4_append_of_whole hlen]
    exact b64decGroups_out_prefix k _ _ [] 0

/-! ### O36: a malformed symbol (R128) -/

/-- A malformed group ends the decode, whatever follows in the group or after it (R128). -/
theorem b64decGroups_of_bad {g : List Sym} (h : (groupState g).bad = true) (j : Bool) (out u : List Sym)
    (n : Nat) (gs hs : List (List Sym)) :
    b64decGroups j out n ((g ++ u) :: gs) = b64decGroups j out n (g :: hs) := by
  have hstate : groupState (g ++ u) = groupState g := accumGroup_append_of_bad u 0#24 0 0 h
  have hf : groupFault g = some .malformedChar := if_pos h
  have hf' : groupFault (g ++ u) = some .malformedChar := by rw [groupFault, hstate, ← groupFault, hf]
  rw [b64decGroups_cons_of_fault hf, b64decGroups_cons_of_fault hf', groupBytes, hstate, ← groupBytes]

/-- A malformed last group may be filled with what follows it. -/
theorem b64decGroups_append_of_malformed_group {j : Bool} {g out : List Sym} {n : Nat} (hne : g ≠ [])
    (hlen : g.length ≤ 4) (h : (b64decGroups j out n [g]).result.cause = .malformedChar) (u : List Sym) :
    b64decGroups j out n (groups4 (g ++ u)) = b64decGroups j out n [g] := by
  rw [groups4_append hne hlen]
  rcases groupFault_cases g with hf | ⟨-, hbad⟩ | ⟨hf, -⟩
  · rw [b64decGroups_cons_of_ok hf] at h
    cases h
  · exact b64decGroups_of_bad hbad j out _ n _ []
  · rw [b64decGroups_cons_of_fault hf] at h
    cases h

/-- Past the malformed group of a text no group is decoded. -/
theorem b64decGroups_append_of_malformed (j : Bool) (t u out : List Sym) (n : Nat)
    (h : (b64decGroups j out n (groups4 t)).result.cause = .malformedChar) :
    b64decGroups j out n (groups4 (t ++ u)) = b64decGroups j out n (groups4 t) := by
  induction t using groups4.induct generalizing out n with
  | case1 => cases h
  | case2 a => exact b64decGroups_append_of_malformed_group (by simp) (by simp) h u
  | case3 a b => exact b64decGroups_append_of_malformed_group (by simp) (by simp) h u
  | case4 a b c => exact b64decGroups_append_of_malformed_group (by simp) (by simp) h u
  | case5 a b c d t ih =>
    simp only [List.cons_append, groups4] at h ⊢
    cases hf : groupFault [a, b, c, d] with
    | some e => rw [b64decGroups_cons_of_fault hf, b64decGroups_cons_of_fault hf]
    | none =>
      rw [b64decGroups_cons_of_ok hf] at h ⊢
      rw [b64decGroups_cons_of_ok hf, ih _ _ h]

/-- Settles O36: whitespace apart, the appended text follows the malformed symbol's group or fills it. -/
theorem b64decIgnoresTextAfterAMalformedSymbol : Obligations.B64decIgnoresTextAfterAMalformedSymbol := by
  unfold Obligations.B64decIgnoresTextAfterAMalformedSymbol
  intro j t u h
  rw [b64dec, strip_append]
  exact b64decGroups_append_of_malformed j (strip t) (strip u) [] 0 h

/-! ### O37: padding (R127, R131) -/

theorem groupFault_eq_of_accumulated {g : List Sym} (hg : ∀ c ∈ g, Accumulated c) :
    groupFault g = if g.countP (fun c => class64 c != .pad) < 2 then some .insufficientGroup else none := by
  obtain ⟨-, hv, hbad⟩ := groupState_of_accumulated hg
  simp only [groupFault, groupError, hv, hbad, Bool.false_eq_true, if_false]

/-- Groups of accumulated symbols fail only for want of valid ones (R127, R131). -/
theorem b64decGroups_of_accumulated {gs : List (List Sym)} (h : ∀ g ∈ gs, ∀ c ∈ g, Accumulated c)
    (j : Bool) (out : List Sym) (n : Nat) :
    (b64decGroups j out n gs).result.cause ≠ .malformedChar ∧
      ((b64decGroups j out n gs).result.fail = true ↔
        ∃ g ∈ gs, g.countP (fun c => class64 c != .pad) < 2) := by
  induction gs generalizing out n with
  | nil => simp [b64decGroups]
  | cons g gs ih =>
    obtain ⟨hg, hgs⟩ := List.forall_mem_cons.1 h
    have hf := groupFault_eq_of_accumulated hg
    by_cases hv : g.countP (fun c => class64 c != .pad) < 2
    · rw [b64decGroups_cons_of_fault (hf.trans (if_pos hv))]
      exact ⟨by simp, iff_of_true rfl ⟨g, List.mem_cons_self, hv⟩⟩
    · rw [b64decGroups_cons_of_ok (hf.trans (if_neg hv)), List.exists_mem_cons_iff, or_iff_right hv]
      exact ih hgs _ _

/-- Settles O37: every symbol of the stripped text's groups is accumulated. -/
theorem paddingIsNeverMalformed : Obligations.PaddingIsNeverMalformed := by
  unfold Obligations.PaddingIsNeverMalformed
  intro j t h
  exact b64decGroups_of_accumulated
    (fun g hg c hc => accumulated_of_mem_strip h c (mem_of_mem_groups4 hg hc)) j [] 0

end Sys2Proof.Machine

/-! PROOFS. O17 to O19, O46: the commands of B64D, by class and by the state of the group (41_b64_decoder.md
R127, R132 to R134, R136). -/

namespace Sys2Proof.Machine

theorem emitB64d_nil (s : State) : s.emitB64d [] = s := by
  simp only [State.emitB64d, List.append_nil]

theorem emitB64d_append (vs ws : List Sym) (s : State) :
    s.emitB64d (vs ++ ws) = (s.emitB64d vs).emitB64d ws := by
  simp only [State.emitB64d, List.append_assoc]

/-! ### O17: a group closes (R124 to R127) -/

theorem closeGroup_eq (r : B64D) (v : Nat) (bad : Bool) : r.closeGroup v bad =
    { d_acc := 0#24, d_pos := 0#2, d_nvalid := 0#2, d_count := r.d_count + byteCount v,
      d_fail := bad || decide (v < 2) || r.d_fail,
      d_cause := if bad then .malformedChar else if v < 2 then .insufficientGroup else r.d_cause } := by
  rcases groupError_cases v bad with ⟨h, rfl, hv⟩ | ⟨h, rfl⟩ | ⟨h, rfl, hv⟩
  · simp [B64D.closeGroup, B64D.clearGroup, h, Nat.not_lt.2 hv]
  · simp [B64D.closeGroup, B64D.clearGroup, B64D.failWith, h]
  · simp [B64D.closeGroup, B64D.clearGroup, B64D.failWith, h, hv]

/-- Settles O17: the registers after a close, and the bytes of at most four valid symbols. -/
theorem groupCloseEmitsCountsAndJudges : Obligations.GroupCloseEmitsCountsAndJudges := by
  unfold Obligations.GroupCloseEmitsCountsAndJudges
  intro s acc k v bad hv
  rw [State.closeGroup, closeGroup_eq, byteCount_eq v hv]
  rfl

/-! ### O18: DATA (R133) -/

section
variable {s : State} {a : Sym}

theorem exec_b64dData_stopped (h : s.b64d.d_fail = true) : exec (.b64dData a) s = .next s := by
  simp only [exec, execB64dData, B64D.stopped, h, if_true, done_eq]

theorem exec_b64dData_running (h : s.b64d.d_fail = false) :
    exec (.b64dData a) s = .next (s.b64dSymbol (class64 a)) := by
  simp only [exec, execB64dData, B64D.stopped, h, Bool.false_eq_true, if_false, done_eq]

theorem exec_b64dData_ws (h : class64 a = .ws) : exec (.b64dData a) s = .next s := by
  cases hf : s.b64d.d_fail with
  | true => exact exec_b64dData_stopped hf
  | false => rw [exec_b64dData_running hf, h, State.b64dSymbol]

theorem accumulate_of_last (h : s.b64d.d_pos = 3#2) (acc : Group) (v : Nat) :
    s.accumulate acc v = s.closeGroup acc 4 v false := if_pos h

theorem accumulate_of_not_last (h : s.b64d.d_pos ≠ 3#2) (acc : Group) (v : Nat) :
    s.accumulate acc v = s.setB64d { s.b64d with
      d_acc := acc, d_pos := s.b64d.d_pos + 1#2, d_nvalid := BitVec.ofNat 2 v } := if_neg h

end

/-- Settles O18: the class of the symbol, then the place in the group. -/
theorem b64dDataByClass : Obligations.B64dDataByClass := by
  unfold Obligations.B64dDataByClass
  intro s a
  refine ⟨decodeCmd_pattern _ .b64d .data a rfl, exec_b64dData_stopped, fun hf => ?_⟩
  refine ⟨exec_b64dData_ws, fun hc => ?_, fun hc hp => ?_, fun hc hp => ?_, fun x hc hp => ?_,
    fun x hc hp _ => ?_⟩
  all_goals rw [exec_b64dData_running hf, hc, State.b64dSymbol]
  · rw [accumulate_of_last hp, accumPad]
  · rw [accumulate_of_not_last hp, BitVec.ofNat_toNat, BitVec.setWidth_eq]
    rfl
  · rw [accumulate_of_last hp, accumAlpha]
  · have hv : BitVec.ofNat 2 (s.b64d.d_nvalid.toNat + 1) = s.b64d.d_nvalid + 1#2 := by bv_omega
    rw [accumulate_of_not_last hp, hv]
    rfl

/-! ### O19: END (R134) -/

/-- The end of a message emits bytes and writes the registers of B64D, or does neither. -/
theorem closeLastGroup_eq_update (s : State) :
    ∃ vs r, s.closeLastGroup = (s.emitB64d vs).setB64d r := by
  rcases closeLastGroup_cases s with ⟨-, -, h⟩ | ⟨-, h⟩
  · exact ⟨_, _, h⟩
  · exact ⟨[], s.b64d, by rw [h, emitB64d_nil]; rfl⟩

/-- Inside the counter envelope the record carries the count (70_reset_and_hazards.md R207). -/
theorem emitResultB64d_of_lt {s : State} (h : s.b64d.d_count < 2 ^ s.params.cntW) :
    s.emitResultB64d = { s with sinks := { s.sinks with
      b64d_res := s.sinks.b64d_res ++ [⟨s.b64d.d_fail, s.b64d.d_cause, s.b64d.d_count⟩] } } := by
  rw [State.emitResultB64d, reportedCount_of_lt _ _ _ h, nextFree_of_lt _ _ _ h]

/-- Settles O19: the record is taken after the short group, and nothing but B64D's part has changed. -/
theorem b64dEndReportsAndClears : Obligations.B64dEndReportsAndClears := by
  unfold Obligations.B64dEndReportsAndClears
  intro s x
  refine ⟨decodeCmd_pattern _ .b64d .fin x rfl, ?_⟩
  intro c hcount
  obtain ⟨vs, r, hup⟩ := closeLastGroup_eq_update s
  have hexec : exec .b64dEnd s = .next (c.emitResultB64d.setB64d .reset) := rfl
  have hc : c = (s.emitB64d vs).setB64d r := hup
  clear_value c
  subst hc
  rw [hexec, emitResultB64d_of_lt hcount]
  rfl

/-! ### O46: whitespace (R121, R136) -/

/-- Whitespace in a message does nothing, so the message runs as its stripped form (R121). -/
theorem runCommands_message_strip (t : List Sym) (s : State) :
    runCommands (message .b64d (strip t)) s = runCommands (message .b64d t) s := by
  induction t generalizing s with
  | nil => rfl
  | cons c t ih =>
    by_cases hc : class64 c = .ws
    · rw [strip_cons_ws hc, ih]
      exact (runCommands_cons (.b64dData c) _ s s (exec_b64dData_ws hc)).symm
    · obtain ⟨u, hu⟩ := exec_isNext (.b64dData c) s
      rw [strip_cons_of_ne hc]
      exact (runCommands_cons _ _ s u hu).trans ((ih u).trans (runCommands_cons _ _ s u hu).symm)

/-- Settles O46: both messages have the same stripped form. -/
theorem whitespaceDoesNotChangeTheDecode : Obligations.WhitespaceDoesNotChangeTheDecode := by
  unfold Obligations.WhitespaceDoesNotChangeTheDecode
  intro s a b w hw
  rw [← runCommands_message_strip (a ++ w :: b), ← runCommands_message_strip (a ++ b), strip_append,
    strip_append, strip_cons_ws hw]

end Sys2Proof.Machine

/-! PROOFS. O42: B64D presented a message computes B64DEC of it (41_b64_decoder.md R130, R133 to R135;
30_encoding.md R80). -/

namespace Sys2Proof.Machine

/-! ### The registers between groups and within one -/

/-- The registers between two groups: no symbol is held, and `r` is what the record would report. -/
def B64D.between (r : ResultRecord) : B64D :=
  { B64D.reset with d_count := r.count, d_fail := r.fail, d_cause := r.cause }

/-- The registers while RUNNING, with the symbols `g` of the open group taken in and `n` bytes counted. -/
def B64D.holding (g : List Sym) (n : Nat) : B64D :=
  { d_acc := (groupState g).acc, d_pos := BitVec.ofNat 2 g.length,
    d_nvalid := BitVec.ofNat 2 (groupState g).v, d_count := n, d_fail := false, d_cause := .none }

/-- A group that another symbol can join: up to three symbols, all accumulated. -/
structure OpenGroup (g : List Sym) : Prop where
  accumulated : ∀ c ∈ g, Accumulated c
  length_lt : g.length < 4

theorem OpenGroup.nil : OpenGroup [] := ⟨by simp, by simp⟩

section
variable {g : List Sym}

theorem OpenGroup.pos_toNat (h : OpenGroup g) (n : Nat) :
    (B64D.holding g n).d_pos.toNat = (groupState g).k := by
  obtain ⟨hk, -, -⟩ := groupState_of_accumulated h.accumulated
  rw [hk]
  exact Nat.mod_eq_of_lt h.length_lt

theorem OpenGroup.nvalid_toNat (h : OpenGroup g) (n : Nat) :
    (B64D.holding g n).d_nvalid.toNat = (groupState g).v := by
  obtain ⟨-, hv, -⟩ := groupState_of_accumulated h.accumulated
  exact Nat.mod_eq_of_lt (hv ▸ Nat.lt_of_le_of_lt List.countP_le_length h.length_lt)

theorem OpenGroup.bad (h : OpenGroup g) : (groupState g).bad = false := by
  obtain ⟨-, -, hbad⟩ := groupState_of_accumulated h.accumulated
  exact hbad

theorem OpenGroup.accumulated_snoc (h : OpenGroup g) {c : Sym} (hc : Accumulated c) :
    ∀ x ∈ g ++ [c], Accumulated x :=
  List.forall_mem_append.2 ⟨h.accumulated, List.forall_mem_singleton.2 hc⟩

/-! ### One symbol and one close, as `ACCUM` and B64DEC have them (R123, R127, R130, R133) -/

theorem groupState_snoc (h : OpenGroup g) (c : Sym) : groupState (g ++ [c]) =
    accumGroup (groupState g).acc (groupState g).k (groupState g).v [c] :=
  accumGroup_append h.accumulated [c] 0#24 0 0

end

/-- What closing a group writes and emits (R127). -/
def State.closeAs (g : List Sym) (s : State) : State :=
  s.closeGroup (groupState g).acc (groupState g).k (groupState g).v (groupState g).bad

section
variable {s : State} {g p : List Sym} {n : Nat}

theorem closeAs_of_fault {c : Cause} (hs : s.b64d = .holding p n) (hf : groupFault g = some c) :
    s.closeAs g = (s.emitB64d (groupBytes s.params.justify g)).setB64d
      (.between ⟨true, c, n + byteCount (groupState g).v⟩) := by
  rw [groupFault] at hf
  rw [State.closeAs, State.closeGroup, B64D.closeGroup, hf, hs]
  rfl

theorem closeAs_of_ok (hs : s.b64d = .holding p n) (hf : groupFault g = none) :
    s.closeAs g = (s.emitB64d (groupBytes s.params.justify g)).setB64d
      (.holding [] (n + byteCount (groupState g).v)) := by
  rw [groupFault] at hf
  rw [State.closeAs, State.closeGroup, B64D.closeGroup, hf, hs]
  rfl

/-- An invalid symbol closes the group as errored (R127, R133). -/
theorem exec_b64dData_closes_of_invalid (hs : s.b64d = .holding g n) (hg : OpenGroup g) {c : Sym}
    (hc : class64 c = .invalid) : exec (.b64dData c) s = .next (s.closeAs (g ++ [c])) := by
  rw [exec_b64dData_running (by rw [hs]; rfl), hc, State.b64dSymbol, State.closeAs, groupState_snoc hg,
    accumGroup_cons_invalid hc, hs, hg.pos_toNat, hg.nvalid_toNat]
  rfl

/-- An accumulated symbol goes through `ACCUM` (R123, R133). -/
theorem b64dSymbol_accumulated (hs : s.b64d = .holding g n) (hg : OpenGroup g) {c : Sym}
    (hc : Accumulated c) : s.b64dSymbol (class64 c) =
      s.accumulate (groupState (g ++ [c])).acc (groupState (g ++ [c])).v := by
  rw [groupState_snoc hg]
  rcases hc.cases with hc | ⟨x, hc⟩
  · rw [accumGroup_cons_pad hc, hc, State.b64dSymbol, hs, hg.nvalid_toNat]
    rfl
  · rw [accumGroup_cons_alpha hc, hc, State.b64dSymbol, hs, hg.nvalid_toNat]
    rfl

/-- The fourth symbol closes the group (R133). -/
theorem exec_b64dData_closes (hs : s.b64d = .holding g n) (hg : OpenGroup g) (h3 : g.length = 3) {c : Sym}
    (hc : Accumulated c) : exec (.b64dData c) s = .next (s.closeAs (g ++ [c])) := by
  obtain ⟨hk, -, hbad⟩ := groupState_of_accumulated (hg.accumulated_snoc hc)
  have hk4 : (groupState (g ++ [c])).k = 4 := by rw [hk, List.length_append, h3]; rfl
  have hpos : s.b64d.d_pos = 3#2 := by rw [hs, B64D.holding, h3]
  rw [exec_b64dData_running (by rw [hs]; rfl), b64dSymbol_accumulated hs hg hc, accumulate_of_last hpos,
    State.closeAs, hk4, hbad]

/-- An earlier symbol is stored (R133). -/
theorem exec_b64dData_stores (hs : s.b64d = .holding g n) (hg : OpenGroup g) (h3 : g.length < 3) {c : Sym}
    (hc : Accumulated c) : exec (.b64dData c) s = .next (s.setB64d (.holding (g ++ [c]) n)) := by
  have hpos : s.b64d.d_pos ≠ 3#2 := by
    rw [hs, ← BitVec.toNat_ne_iff_ne, B64D.holding, BitVec.toNat_ofNat, BitVec.toNat_ofNat]
    omega
  rw [exec_b64dData_running (by rw [hs]; rfl), b64dSymbol_accumulated hs hg hc, accumulate_of_not_last hpos,
    hs, B64D.holding, B64D.holding, List.length_append, BitVec.ofNat_add]
  rfl

/-- The end of a message closes an open group that holds a symbol (R134). -/
theorem closeLastGroup_holding (hs : s.b64d = .holding g n) (hg : OpenGroup g) (hne : g ≠ []) :
    s.closeLastGroup = s.closeAs g := by
  have hpos : (B64D.holding g n).d_pos ≠ 0#2 := by
    have := List.length_pos_iff.2 hne
    have := hg.length_lt
    rw [← BitVec.toNat_ne_iff_ne, B64D.holding, BitVec.toNat_ofNat, BitVec.toNat_ofNat]
    omega
  rw [State.closeLastGroup, hs, if_pos ⟨rfl, hpos⟩, hg.pos_toNat, hg.nvalid_toNat, State.closeAs, hg.bad]
  rfl

/-! ### Messages to B64D -/

/-- The decode's bytes emitted, its result reported, and the registers in their reset state (R130, R134). -/
def State.reportB64d (d : Decoded) (s : State) : State :=
  ((s.emitB64d d.out).setB64d (.between d.result)).emitResultB64d.setB64d .reset

theorem runCommands_message_cons {c : Sym} {t : List Sym} {s u : State}
    (h : exec (.b64dData c) s = .next u) :
    runCommands (message .b64d (c :: t)) s = runCommands (message .b64d t) u := runCommands_cons _ _ s u h

/-- A message that has failed is only reported (10_state.md R35; R134). -/
theorem runCommands_message_of_failed (h : s.b64d.d_fail = true) (t : List Sym) :
    runCommands (message .b64d t) s = .next (s.emitResultB64d.setB64d .reset) := by
  induction t with
  | nil =>
    have hlast : s.closeLastGroup = s := if_neg fun hr => absurd h (ne_true_of_eq_false hr.1)
    exact (runCommands_cons _ _ s _ rfl).trans (by rw [hlast, runCommands_nil])
  | cons c t ih => rw [runCommands_message_cons (exec_b64dData_stopped h), ih]

/-- The message after a group has closed: reported at once if the group is in error, else decoded on. -/
theorem runCommands_message_of_closes (hs : s.b64d = .holding g n) (t : List Sym)
    (ih : ∀ {u : State} {m : Nat}, u.b64d = .holding [] m → runCommands (message .b64d t) u =
      .next (u.reportB64d (b64decGroups u.params.justify [] m (groups4 (strip t))))) :
    runCommands (message .b64d t) (s.closeAs p) =
      .next (s.reportB64d (b64decGroups s.params.justify [] n (p :: groups4 (strip t)))) := by
  cases hf : groupFault p with
  | some c =>
    rw [b64decGroups_cons_of_fault hf, closeAs_of_fault hs hf, runCommands_message_of_failed rfl]
    rfl
  | none =>
    rw [b64decGroups_cons_of_ok hf, closeAs_of_ok hs hf, ih rfl, b64decGroups_append_out _ _ (_ ++ _),
      State.reportB64d, State.reportB64d, emitB64d_append, List.nil_append]
    rfl

/-- Between groups the end of a message only reports (R134). -/
theorem runCommands_end_between (hs : s.b64d = .holding [] n) :
    runCommands (message .b64d []) s = .next (s.reportB64d (b64decGroups s.params.justify [] n [])) := by
  have hlast : s.closeLastGroup = s := if_neg fun h => h.2 (by rw [hs]; rfl)
  have hregs : s.setB64d (.between ⟨false, .none, n⟩) = s := (congrArg s.setB64d hs).symm
  exact (runCommands_cons _ _ s _ rfl).trans (by
    rw [hlast, b64decGroups, State.reportB64d, emitB64d_nil, hregs, runCommands_nil])

/-- After the short last group there is none (R134). -/
theorem exec_b64dEnd_closeLastGroup (s : State) : exec .b64dEnd s.closeLastGroup = exec .b64dEnd s := by
  have hidem : s.closeLastGroup.closeLastGroup = s.closeLastGroup := by
    rcases closeLastGroup_cases s with ⟨-, -, h⟩ | ⟨-, h⟩
    · rw [h]
      obtain ⟨-, hpos, -⟩ := closeGroup_regs s.b64d s.b64d.d_nvalid.toNat false
      exact if_neg fun hr => hr.2 hpos
    · rw [h, h]
  simp only [exec, execB64dEnd, hidem]

/-- In an open group the end of a message closes the group, if it holds a symbol, and reports (R134). -/
theorem runCommands_end_holding (hs : s.b64d = .holding g n) (hg : OpenGroup g) :
    runCommands (message .b64d []) s =
      .next (s.reportB64d (b64decGroups s.params.justify [] n (groups4 g))) := by
  by_cases hne : g = []
  · subst hne
    exact runCommands_end_between hs
  · have hgroups : groups4 g = [g] := by
      simpa [groups4] using groups4_append hne (Nat.le_of_lt hg.length_lt) []
    have hend : runCommands (message .b64d []) s = runCommands (message .b64d []) (s.closeAs g) := by
      rw [← closeLastGroup_holding hs hg hne]
      exact (runCommands_cons _ _ s _ rfl).trans
        (runCommands_cons _ _ _ _ (exec_b64dEnd_closeLastGroup s)).symm
    rw [hend, hgroups]
    exact runCommands_message_of_closes hs [] runCommands_end_between

/-- From an open group, a message is decoded as the group's symbols and then the message (R130, R133,
R134). -/
theorem runCommands_message_b64d (t : List Sym) (hs : s.b64d = .holding g n) (hg : OpenGroup g) :
    runCommands (message .b64d t) s =
      .next (s.reportB64d (b64decGroups s.params.justify [] n (groups4 (g ++ strip t)))) := by
  induction t generalizing s g n with
  | nil =>
    rw [runCommands_end_holding hs hg, strip, List.filter_nil, List.append_nil]
  | cons c t ih =>
    have hnext {u : State} {m : Nat} (hu : u.b64d = .holding [] m) : runCommands (message .b64d t) u =
        .next (u.reportB64d (b64decGroups u.params.justify [] m (groups4 (strip t)))) := by
      rw [ih hu .nil, List.nil_append]
    have hne : g ++ [c] ≠ [] := by simp
    have hlen : (g ++ [c]).length ≤ 4 := by simpa using hg.length_lt
    by_cases hws : class64 c = .ws
    · rw [runCommands_message_cons (exec_b64dData_ws hws), strip_cons_ws hws, ih hs hg]
    rw [strip_cons_of_ne hws, List.append_cons]
    by_cases hinv : class64 c = .invalid
    · have hbad : (groupState (g ++ [c])).bad = true := by
        rw [groupState_snoc hg, accumGroup_cons_invalid hinv]
      rw [runCommands_message_cons (exec_b64dData_closes_of_invalid hs hg hinv), groups4_append hne hlen,
        b64decGroups_of_bad hbad _ _ _ _ _ (groups4 (strip t))]
      exact runCommands_message_of_closes hs t hnext
    have hc : Accumulated c := ⟨hws, hinv⟩
    by_cases h3 : g.length = 3
    · have hfull : 4 - (g ++ [c]).length = 0 := by rw [List.length_append, h3]; rfl
      rw [runCommands_message_cons (exec_b64dData_closes hs hg h3 hc), groups4_append hne hlen, hfull,
        List.take_zero, List.drop_zero, List.append_nil]
      exact runCommands_message_of_closes hs t hnext
    · have hlt : g.length < 3 := Nat.lt_of_le_of_ne (Nat.le_of_lt_succ hg.length_lt) h3
      have hopen : OpenGroup (g ++ [c]) :=
        ⟨hg.accumulated_snoc hc, by rw [List.length_append]; exact Nat.succ_lt_succ hlt⟩
      rw [runCommands_message_cons (exec_b64dData_stores hs hg hlt hc), ih rfl hopen]
      rfl

end

/-- Settles O42: the NOPs drop out, and the message is decoded from the empty group of the reset state. -/
theorem b64dRefinesB64dec : Obligations.B64dRefinesB64dec := by
  unfold Obligations.B64dRefinesB64dec
  intro s t is hs hm
  refine ⟨reportedCount s.params.cntW (b64dec s.params.justify t).result.count (Config.freeCountB64d s.freeD),
    nextFree s.params.cntW (b64dec s.params.justify t).result.count s.freeD, reportedCount_lt _ _ _,
    fun hlt => ?_, ?_⟩
  · rw [b64dec_count]
    exact ⟨reportedCount_of_lt _ _ _ hlt, nextFree_of_lt _ _ _ hlt⟩
  · rw [runCommands_of_presents hm, runCommands_message_b64d (g := []) t hs OpenGroup.nil, State.reportB64d,
      ← hs]
    rfl

end Sys2Proof.Machine

/-! PROOFS. O38, O43, O20, O29: the hex encoder (42_hex_encoder.md R150 to R155). -/

namespace Sys2Proof.Machine

/-! ### The nibbles of a byte (R150) -/

/-- Settles O29: the nibbles are the two fields of a byte. -/
theorem splitAndJoinAreInverse : Obligations.SplitAndJoinAreInverse := by
  unfold Obligations.SplitAndJoinAreInverse
  exact ⟨split_append (m := 4) (n := 4), fun hi lo => Prod.ext (append_hi hi lo) (append_lo hi lo)⟩

/-- The nibbles by arithmetic (R150). -/
theorem split8_eq_div_mod (b : Sym) :
    split8 b = (BitVec.ofNat 4 (b.toNat / 16), BitVec.ofNat 4 (b.toNat % 16)) := by
  refine Prod.ext (BitVec.eq_of_toNat_eq ?_) (BitVec.eq_of_toNat_eq ?_)
  · exact field_toNat b 4 4
  · simp [split8]

/-! ### The shape of HEXENC (R151, R155) -/

theorem hexChars_length (b : Sym) : (hexChars b).length = 2 := rfl

theorem hexChars_nibAsc (b : Sym) : ∀ c ∈ hexChars b, ∃ n, nibAsc n = c := by
  simp [hexChars]

/-- R155 (a), the length. -/
theorem hexenc_length (m : List Sym) : (hexenc m).length = 2 * m.length := by
  induction m with
  | nil => rfl
  | cons b m ih =>
    rw [hexenc, List.length_append, hexChars_length, ih, List.length_cons]
    omega

/-- R155 (a), the digits. -/
theorem hexenc_nibAsc (m : List Sym) : ∀ c ∈ hexenc m, ∃ n, nibAsc n = c := by
  induction m with
  | nil => simp [hexenc]
  | cons b m ih => exact List.forall_mem_append.2 ⟨hexChars_nibAsc b, ih⟩

/-- R155 (b). -/
theorem hexenc_append (m t : List Sym) : hexenc (m ++ t) = hexenc m ++ hexenc t := by
  induction m with
  | nil => rfl
  | cons b m ih => rw [List.cons_append, hexenc, hexenc, ih, List.append_assoc]

/-- Settles O38: each law by induction on the message, byte by byte. -/
theorem hexencLengthAlphabetAndAppend : Obligations.HexencLengthAlphabetAndAppend := by
  unfold Obligations.HexencLengthAlphabetAndAppend
  intro m t
  exact ⟨hexenc_length m, hexenc_nibAsc m, hexenc_append m t⟩

/-! ### HEXE's commands and messages (R153 to R155) -/

theorem exec_hexeData (a : Sym) (s : State) : exec (.hexeData a) s = .next (s.emitHexe (hexChars a)) := rfl

theorem exec_hexeEnd (s : State) : exec .hexeEnd s = .next s := rfl

/-- Settles O20: DATA emits the digits of the nibbles, which are quotient and remainder by 16. -/
theorem hexeDataEmitsTwoDigits : Obligations.HexeDataEmitsTwoDigits := by
  unfold Obligations.HexeDataEmitsTwoDigits
  intro s a x
  refine ⟨decodeCmd_pattern _ .hexe .data a rfl, ?_, decodeCmd_pattern _ .hexe .fin x rfl, exec_hexeEnd s⟩
  rw [exec_hexeData, hexChars, split8_eq_div_mod]
  rfl

theorem emitHexe_nil (s : State) : s.emitHexe [] = s := by
  simp only [State.emitHexe, List.append_nil]

theorem emitHexe_append (vs ws : List Sym) (s : State) :
    s.emitHexe (vs ++ ws) = (s.emitHexe vs).emitHexe ws := by
  simp only [State.emitHexe, List.append_assoc]

/-- A message emits its encoding, byte by byte (R155 (d)). -/
theorem runCommands_message_hexe (m : List Sym) (s : State) :
    runCommands (message .hexe m) s = .next (s.emitHexe (hexenc m)) := by
  induction m generalizing s with
  | nil =>
    rw [hexenc, emitHexe_nil]
    exact runCommands_cons _ _ _ _ (exec_hexeEnd s)
  | cons b m ih =>
    rw [hexenc, emitHexe_append]
    exact (runCommands_cons _ _ _ _ (exec_hexeData b s)).trans (ih _)

/-- Settles O43: the NOPs drop out, and the message is encoded byte by byte. -/
theorem hexeRefinesHexenc : Obligations.HexeRefinesHexenc := by
  unfold Obligations.HexeRefinesHexenc
  intro s m is hm
  rw [runCommands_of_presents hm]
  exact runCommands_message_hexe m s

end Sys2Proof.Machine

/-! PROOFS. O39, O40: pairs of digits and the bytes they spell (43_hex_decoder.md R160 to R166, R171). -/

namespace Sys2Proof.Machine

/-! ### Texts that spell bytes (R160 to R162) -/

/-- The text is whole pairs of hex digits, and these are the bytes it spells (R160 to R162). -/
inductive SpellsBytes : List Sym → List Sym → Prop where
  | nil : SpellsBytes [] []
  | pair {a b : Sym} {hi lo : Nibble} {t m : List Sym} (ha : ascNib a = some hi) (hb : ascNib b = some lo)
      (h : SpellsBytes t m) : SpellsBytes (a :: b :: t) (join8 hi lo :: m)

/-- Every text of digits of even length spells some bytes. -/
theorem exists_spellsBytes {t : List Sym} (hlen : t.length % 2 = 0)
    (hd : ∀ c ∈ t, (ascNib c).isSome = true) : ∃ m, SpellsBytes t m := by
  induction t using List.twoStepInduction with
  | nil => exact ⟨[], .nil⟩
  | singleton a => exact absurd hlen Nat.one_ne_zero
  | cons_cons a b t ih _ =>
    obtain ⟨ha, hb, ht⟩ : (ascNib a).isSome = true ∧ (ascNib b).isSome = true ∧
        ∀ c ∈ t, (ascNib c).isSome = true := by
      simpa only [List.forall_mem_cons] using hd
    obtain ⟨hi, ha⟩ := Option.isSome_iff_exists.1 ha
    obtain ⟨lo, hb⟩ := Option.isSome_iff_exists.1 hb
    obtain ⟨m, hm⟩ := ih (by simpa only [List.length_cons, Nat.add_mod_right, Nat.add_assoc] using hlen) ht
    exact ⟨_, .pair ha hb hm⟩

/-- The encoding of bytes spells them (42_hex_encoder.md R151). -/
theorem spellsBytes_hexenc (m : List Sym) : SpellsBytes (hexenc m) m := by
  induction m with
  | nil => exact .nil
  | cons b m ih =>
    have h := SpellsBytes.pair (ascNib_nibAsc (split8 b).1) (ascNib_nibAsc (split8 b).2) ih
    rwa [splitAndJoinAreInverse.1 b] at h

theorem SpellsBytes.length_eq {t m : List Sym} (h : SpellsBytes t m) : m.length = t.length / 2 := by
  induction h with
  | nil => rfl
  | pair ha hb h ih =>
    simp only [List.length_cons]
    omega

/-! ### HEXDEC in front of and after such a text (R163 to R166) -/

section
variable {a b : Sym}

/-- A pair of digits is one more byte (R162, R166). -/
theorem hexdecPairs_pair {hi lo : Nibble} (ha : ascNib a = some hi) (hb : ascNib b = some lo) (out : List Sym)
    (n : Nat) (t : List Sym) :
    hexdecPairs out n (a :: b :: t) = hexdecPairs (out ++ [join8 hi lo]) (n + 1) t := by
  rw [hexdecPairs, ha, hb]

/-- A pair with an invalid symbol ends the decode (R163). -/
theorem hexdecPairs_malformed (h : ascNib a = none ∨ ascNib b = none) (out : List Sym) (n : Nat)
    (t : List Sym) : hexdecPairs out n (a :: b :: t) = ⟨out, ⟨true, .malformedChar, n⟩⟩ := by
  rcases h with h | h
  · rw [hexdecPairs, h]
  · cases ha : ascNib a <;> rw [hexdecPairs, h, ha]

end

/-- The bytes that a text spells are decoded, and what follows the text is decoded after them. -/
theorem SpellsBytes.hexdecPairs_append {t m : List Sym} (h : SpellsBytes t m) (u out : List Sym) (n : Nat) :
    hexdecPairs out n (t ++ u) = hexdecPairs (out ++ m) (n + m.length) u := by
  induction h generalizing out n with
  | nil => rw [List.nil_append, List.append_nil, List.length_nil, Nat.add_zero]
  | pair ha hb h ih =>
    rw [List.cons_append, List.cons_append, hexdecPairs_pair ha hb, ih, List.append_assoc, List.length_cons,
      Nat.add_assoc, Nat.add_comm 1]
    rfl

theorem SpellsBytes.hexdec_append {t m : List Sym} (h : SpellsBytes t m) (u : List Sym) :
    hexdec (t ++ u) = hexdecPairs m m.length u := by
  rw [hexdec, h.hexdecPairs_append, List.nil_append, Nat.zero_add]

/-- A text that spells bytes decodes to them with success (R165). -/
theorem SpellsBytes.hexdec_eq {t m : List Sym} (h : SpellsBytes t m) :
    hexdec t = ⟨m, { fail := false, cause := .none, count := m.length }⟩ := by
  have happ := h.hexdec_append []
  rwa [List.append_nil, hexdecPairs] at happ

/-- Settles O40: what follows the pairs of digits is judged with their bytes as output so far. -/
theorem hexdecJudgesPairByPair : Obligations.HexdecJudgesPairByPair := by
  unfold Obligations.HexdecJudgesPairByPair
  intro t u a b hlen hd
  obtain ⟨m, hm⟩ := exists_spellsBytes hlen hd
  rw [hm.hexdec_eq, hm.hexdec_append, hm.hexdec_append, ← hm.length_eq]
  exact ⟨rfl, rfl, rfl, fun h => hexdecPairs_malformed h m m.length u⟩

/-! ### The round trips (R171) -/

/-- A digit with its letter in lower case, as R171 (d) has it. -/
def lowerDigit (c : Sym) : Sym := if 0x41 ≤ c.toNat ∧ c.toNat ≤ 0x46 then c + 0x20#8 else c

/-- A digit's value is written as the digit in lower case (20_memory.md R54, R55). -/
theorem nibAsc_of_ascNib {c : Sym} {n : Nibble} (h : ascNib c = some n) : nibAsc n = lowerDigit c := by
  rw [ascNib_eq_some_iff] at h
  rw [← BitVec.toNat_inj, nibAsc_toNat, lowerDigit, apply_ite BitVec.toNat, BitVec.toNat_add,
    BitVec.toNat_ofNat]
  split <;> split <;> omega

theorem hexChars_join8 (hi lo : Nibble) : hexChars (join8 hi lo) = [nibAsc hi, nibAsc lo] := by
  rw [hexChars, splitAndJoinAreInverse.2]

/-- The encoding of the bytes that a text spells is the text in lower case (R171 (d)). -/
theorem SpellsBytes.hexenc_eq {t m : List Sym} (h : SpellsBytes t m) : hexenc m = t.map lowerDigit := by
  induction h with
  | nil => rfl
  | pair ha hb h ih =>
    rw [hexenc, hexChars_join8, nibAsc_of_ascNib ha, nibAsc_of_ascNib hb, ih]
    rfl

/-- Settles O39: the encoding spells its message, and a text of digits spells what it decodes to. -/
theorem hexRoundTrip : Obligations.HexRoundTrip := by
  unfold Obligations.HexRoundTrip
  refine ⟨fun m => (spellsBytes_hexenc m).hexdec_eq, fun t hlen hd => ?_⟩
  obtain ⟨m, hm⟩ := exists_spellsBytes hlen hd
  rw [hm.hexdec_eq]
  exact hm.hexenc_eq

end Sys2Proof.Machine

/-! PROOFS. O21, O22, O44: HEXD's commands, and HEXD presented a message computes HEXDEC of it
(43_hex_decoder.md R166 to R170; 30_encoding.md R80). -/

namespace Sys2Proof.Machine

/-! ### DATA (R168) -/

/-- `JOIN8` by arithmetic (R162). -/
theorem join8_eq_ofNat (hi lo : Nibble) : join8 hi lo = BitVec.ofNat 8 (16 * hi.toNat + lo.toNat) := by
  refine BitVec.eq_of_toNat_eq ?_
  rw [join8, toNat_append, BitVec.toNat_ofNat]
  omega

section
variable {s : State} (a : Sym)

theorem exec_hexdData_stopped (h : s.hexd.h_fail = true) : exec (.hexdData a) s = .next s := by
  simp only [exec, execHexdData, HEXD.stopped, h, if_true, done_eq]

theorem exec_hexdData_first (hf : s.hexd.h_fail = false) (hp : s.hexd.h_phase = false) :
    exec (.hexdData a) s = .next (s.setHexd (s.hexd.hold (ascNib a))) := by
  simp only [exec, execHexdData, HEXD.stopped, hf, hp, if_false, Bool.false_eq_true, done_eq]

theorem exec_hexdData_second (hf : s.hexd.h_fail = false) (hp : s.hexd.h_phase = true) :
    exec (.hexdData a) s = .next (s.completePair (ascNib a)) := by
  simp only [exec, execHexdData, HEXD.stopped, hf, hp, if_false, if_true, Bool.false_eq_true, done_eq]

end

theorem completePair_digits {s : State} (h : s.hexd.h_hi_ok = true) (n : Nibble) :
    s.completePair (some n) = (s.emitHexd [join8 s.hexd.h_hi n]).setHexd
      { s.hexd with h_phase := false, h_count := s.hexd.h_count + 1 } := by
  simp only [State.completePair, h]

theorem completePair_malformed {s : State} {q : Option Nibble} (h : s.hexd.h_hi_ok = false ∨ q = none) :
    s.completePair q =
      s.setHexd { s.hexd with h_phase := false, h_fail := true, h_cause := .malformedChar } := by
  rcases completePair_cases q s with ⟨n, hok, rfl, -⟩ | ⟨-, heq⟩
  · simp [hok] at h
  · exact heq

/-- Settles O21: STOPPED, the first symbol by its classification, and the second by the pair's. -/
theorem hexdDataHoldsThenJudges : Obligations.HexdDataHoldsThenJudges := by
  unfold Obligations.HexdDataHoldsThenJudges
  intro s a
  refine ⟨decodeCmd_pattern _ .hexd .data a rfl, exec_hexdData_stopped a,
    fun hf hp => ⟨fun n ha => ?_, fun ha => ?_⟩, fun hf hp => ⟨fun n hok ha => ?_, fun hbad => ?_⟩⟩
  · rw [exec_hexdData_first a hf hp, ha]
    rfl
  · rw [exec_hexdData_first a hf hp, ha]
    rfl
  · rw [exec_hexdData_second a hf hp, ha, completePair_digits hok, join8_eq_ofNat]
    rfl
  · rw [exec_hexdData_second a hf hp, completePair_malformed hbad]
    rfl

/-! ### END (R169) -/

/-- What the record would report from these registers (10_state.md R30). -/
def HEXD.result (r : HEXD) : ResultRecord := ⟨r.h_fail, r.h_cause, r.h_count⟩

/-- A result reported, and the registers in their reset state (R169). -/
def State.reportHexd (r : ResultRecord) (s : State) : State :=
  { s with
    hexd := .reset
    sinks := { s.sinks with
      hexd_res := s.sinks.hexd_res ++
        [{ r with count := reportedCount s.params.cntW r.count (Config.freeCountHexd s.freeH) }] }
    freeH := nextFree s.params.cntW r.count s.freeH }

theorem exec_hexdEnd (s : State) : exec .hexdEnd s = .next (s.reportHexd s.hexd.judgeEnd.result) := rfl

/-- Inside the counter envelope the record carries the count (70_reset_and_hazards.md R207). -/
theorem reportHexd_of_lt {r : ResultRecord} {s : State} (h : r.count < 2 ^ s.params.cntW) :
    s.reportHexd r =
      { s with hexd := .reset, sinks := { s.sinks with hexd_res := s.sinks.hexd_res ++ [r] } } := by
  rw [State.reportHexd, reportedCount_of_lt _ _ _ h, nextFree_of_lt _ _ _ h]

/-- The leftover symbol is the error ODD_TRAILING, and it is not counted (R164, R169). -/
theorem judgeEnd_result (r : HEXD) : r.judgeEnd.result =
    if r.h_fail = false ∧ r.h_phase = true then ⟨true, .oddTrailing, r.h_count⟩ else r.result := by
  rw [HEXD.judgeEnd, HEXD.stopped, apply_ite HEXD.result]
  rfl

theorem judgeEnd_result_count (r : HEXD) : r.judgeEnd.result.count = r.h_count := by
  rw [judgeEnd_result]
  split <;> rfl

/-- Settles O22: inside the envelope END reports what it judges. -/
theorem hexdEndReportsAndClears : Obligations.HexdEndReportsAndClears := by
  unfold Obligations.HexdEndReportsAndClears
  intro s x
  refine ⟨decodeCmd_pattern _ .hexd .fin x rfl, fun hcount => ?_⟩
  rw [← judgeEnd_result_count] at hcount
  rw [exec_hexdEnd, reportHexd_of_lt hcount, judgeEnd_result]
  rfl

/-! ### Messages to HEXD (R170) -/

theorem emitHexd_nil (s : State) : s.emitHexd [] = s := by
  simp only [State.emitHexd, List.append_nil]

theorem emitHexd_append (vs ws : List Sym) (s : State) :
    s.emitHexd (vs ++ ws) = (s.emitHexd vs).emitHexd ws := by
  simp only [State.emitHexd, List.append_assoc]

/-- A message that has failed is only reported (10_state.md R35; R169). -/
theorem runCommands_message_hexd_of_failed {s : State} (h : s.hexd.h_fail = true) (t : List Sym) :
    runCommands (message .hexd t) s = .next (s.reportHexd s.hexd.result) := by
  induction t with
  | nil =>
    have hres : s.hexd.judgeEnd.result = s.hexd.result := by rw [judgeEnd_result, h]; rfl
    rw [← hres]
    exact runCommands_cons _ _ s _ (exec_hexdEnd s)
  | cons c t ih => exact (runCommands_cons _ _ s s (exec_hexdData_stopped c h)).trans ih

/-- Registers between two pairs: RUNNING, no symbol held, `n` bytes counted. `h_hi_ok` and `h_hi` may
be stale (10_state.md R26). -/
structure HEXD.Between (n : Nat) (r : HEXD) : Prop where
  phase : r.h_phase = false
  result : r.result = ⟨false, .none, n⟩

theorem HEXD.Between.running {n : Nat} {r : HEXD} (h : r.Between n) : r.h_fail = false :=
  congrArg ResultRecord.fail h.result

/-- A held symbol is not judged: the flag and what the record would report stay (R168). -/
theorem hold_regs (q : Option Nibble) (r : HEXD) :
    (r.hold q).h_phase = true ∧ (r.hold q).h_hi_ok = q.isSome ∧ (r.hold q).h_fail = r.h_fail ∧
      (r.hold q).result = r.result := by
  cases q <;> exact ⟨rfl, rfl, rfl, rfl⟩

section
variable {s : State} {n : Nat}

/-- The end of a message between two pairs is success (R165, R169). -/
theorem runCommands_message_hexd_nil (h : s.hexd.Between n) :
    runCommands (message .hexd []) s = .next (s.reportHexd ⟨false, .none, n⟩) := by
  have hres : s.hexd.judgeEnd.result = ⟨false, .none, n⟩ := by
    rw [judgeEnd_result, if_neg (by simp [h.phase]), h.result]
  rw [← hres]
  exact runCommands_cons _ _ s _ (exec_hexdEnd s)

/-- The end of a message after the first symbol of a pair is ODD_TRAILING (R164, R169). -/
theorem runCommands_message_hexd_singleton (h : s.hexd.Between n) (a : Sym) :
    runCommands (message .hexd [a]) s = .next (s.reportHexd ⟨true, .oddTrailing, n⟩) := by
  obtain ⟨hp, -, hf, hr⟩ := hold_regs (ascNib a) s.hexd
  have hn : (s.hexd.hold (ascNib a)).h_count = n := congrArg ResultRecord.count (hr.trans h.result)
  have hres : (s.hexd.hold (ascNib a)).judgeEnd.result = ⟨true, .oddTrailing, n⟩ := by
    rw [judgeEnd_result, if_pos ⟨hf.trans h.running, hp⟩, hn]
  rw [← hres]
  exact (runCommands_cons _ _ s _ (exec_hexdData_first a h.running h.phase)).trans
    (runCommands_cons _ _ _ _ (exec_hexdEnd _))

/-- The two symbols of a pair are held and then judged (R168). -/
theorem runCommands_message_hexd_pair (h : s.hexd.Between n) (a b : Sym) (t : List Sym) :
    runCommands (message .hexd (a :: b :: t)) s = runCommands (message .hexd t)
      ((s.setHexd (s.hexd.hold (ascNib a))).completePair (ascNib b)) := by
  obtain ⟨hp, -, hf, -⟩ := hold_regs (ascNib a) s.hexd
  exact (runCommands_cons _ _ s _ (exec_hexdData_first a h.running h.phase)).trans
    (runCommands_cons _ _ _ _ (exec_hexdData_second b (hf.trans h.running) hp))

/-- A pair of digits is emitted and counted (R168). -/
theorem completePair_hold_digits (h : s.hexd.Between n) (hi lo : Nibble) :
    ∃ r, HEXD.Between (n + 1) r ∧ (s.setHexd (s.hexd.hold (some hi))).completePair (some lo) =
      (s.emitHexd [join8 hi lo]).setHexd r := by
  refine ⟨{ s.hexd.hold (some hi) with h_phase := false, h_count := s.hexd.h_count + 1 },
    ⟨rfl, ?_⟩, completePair_digits rfl lo⟩
  exact congrArg (fun d : ResultRecord => { d with count := d.count + 1 }) h.result

/-- A pair with an invalid symbol is MALFORMED_CHAR (R163, R168). -/
theorem completePair_hold_malformed (h : s.hexd.Between n) {q q' : Option Nibble}
    (hq : q = none ∨ q' = none) : ∃ r : HEXD, r.h_fail = true ∧ r.result = ⟨true, .malformedChar, n⟩ ∧
      (s.setHexd (s.hexd.hold q)).completePair q' = s.setHexd r := by
  obtain ⟨-, hok, -, hr⟩ := hold_regs q s.hexd
  refine ⟨_, rfl, ?_, completePair_malformed (hq.imp_left fun hq => hok.trans (by rw [hq]; rfl))⟩
  exact congrArg (fun d : ResultRecord => { d with fail := true, cause := .malformedChar }) (hr.trans h.result)

end

/-- With `out` emitted and `n` bytes counted, the rest of a message goes on as HEXDEC's loop does, pair
by pair (R166, R170). -/
theorem runCommands_message_hexd (out : List Sym) (n : Nat) (t : List Sym) (s : State) {r : HEXD}
    (h : r.Between n) : runCommands (message .hexd t) ((s.emitHexd out).setHexd r) =
      .next ((s.emitHexd (hexdecPairs out n t).out).reportHexd (hexdecPairs out n t).result) := by
  induction out, n, t using hexdecPairs.induct generalizing r with
  | case1 out n => exact runCommands_message_hexd_nil h
  | case2 out n a => exact runCommands_message_hexd_singleton h a
  | case3 out n a b t hi lo hb ha ih =>
    obtain ⟨r', h', hpair⟩ := completePair_hold_digits (s := (s.emitHexd out).setHexd r) h hi lo
    rw [runCommands_message_hexd_pair h, ha, hb, hpair, hexdecPairs_pair ha hb, ← ih h', emitHexd_append]
    rfl
  | case4 out n a b t hbad =>
    have hnone : ascNib a = none ∨ ascNib b = none := by
      cases ha : ascNib a with
      | none => exact .inl rfl
      | some hi => exact .inr (Option.eq_none_iff_forall_ne_some.2 fun lo hb => hbad hi lo ha hb)
    obtain ⟨r', hf, hr, hpair⟩ := completePair_hold_malformed (s := (s.emitHexd out).setHexd r) h hnone
    rw [runCommands_message_hexd_pair h, hpair, runCommands_message_hexd_of_failed hf,
      hexdecPairs_malformed hnone, ← hr]
    rfl

/-- The count of a decode is the number of bytes it gives (R166). -/
theorem hexdec_count (t : List Sym) : (hexdec t).result.count = (hexdec t).out.length := by
  obtain ⟨⟨hcount, -⟩, -⟩ := hexdecPairs_reports t (out := []) rfl
  exact hcount

/-- Settles O44: the NOPs drop out, and the message is decoded from the reset state, which is between two
pairs. -/
theorem hexdRefinesHexdec : Obligations.HexdRefinesHexdec := by
  unfold Obligations.HexdRefinesHexdec
  intro s t is hs hm
  refine ⟨reportedCount s.params.cntW (hexdec t).result.count (Config.freeCountHexd s.freeH),
    nextFree s.params.cntW (hexdec t).result.count s.freeH, reportedCount_lt _ _ _, fun hlt => ?_, ?_⟩
  · rw [hexdec_count]
    exact ⟨reportedCount_of_lt _ _ _ hlt, nextFree_of_lt _ _ _ hlt⟩
  · have hrun := runCommands_message_hexd [] 0 t s (r := .reset) ⟨rfl, rfl⟩
    have hstart : (s.emitHexd []).setHexd .reset = s := by
      rw [emitHexd_nil, ← hs]
      rfl
    rw [hstart] at hrun
    rw [runCommands_of_presents hm, hrun, State.reportHexd, ← hs]
    rfl

end Sys2Proof.Machine

/-! PROOFS. O13: a conforming host is never stopped (60_exceptions.md R180; 70_reset_and_hazards.md R208). -/

namespace Sys2Proof.Machine

/-- A word that passes the checks of 30_encoding.md R82 and R86 is a command. -/
theorem exists_decodeWord_of_wf {w : Word} (h : w.wf = true) : ∃ i, decodeWord w = .ok i := by
  obtain ⟨hb, hk⟩ : w.extractLsb' 12 4 = 0#4 ∧ w.extractLsb' 8 2 ≠ 0b11#2 := by
    simpa [Word.wf, Word.highBitsClear, Word.kindDefined] using h
  obtain ⟨i, hi, -⟩ := decodeWord_command hb hk
  exact ⟨i, hi⟩

/-- With a conforming host a step answers a next state, and what is still issued is commands. -/
theorem step_of_hostConforms {s : State} (h : s.HostConforms) :
    ∃ t, step s = .next t ∧ t.HostConforms := by
  cases hin : s.input with
  | nil => exact ⟨s, by rw [step, hin], h⟩
  | cons x rest =>
    have hrest : (s.setInput rest).HostConforms := fun w hw => h w (hin ▸ List.mem_cons_of_mem x hw)
    cases x with
    | reset => exact ⟨(s.setInput rest).applyReset, by rw [step, hin], hrest⟩
    | word w =>
      obtain ⟨i, hi⟩ := exists_decodeWord_of_wf (h w (hin ▸ List.mem_cons_self))
      obtain ⟨t, ht⟩ := exec_isNext i (s.setInput rest)
      refine ⟨t, (step_word s w rest i hin hi).trans ht, ?_⟩
      rwa [State.HostConforms, exec_input i _ t ht]

/-- Settles O13: by induction on the number of steps, each of which leaves a conforming host. -/
theorem conformingHostIsNeverStopped : Obligations.ConformingHostIsNeverStopped := by
  unfold Obligations.ConformingHostIsNeverStopped
  intro s n h
  induction n generalizing s with
  | zero => exact ⟨s, rfl, h⟩
  | succ n ih =>
    obtain ⟨u, hu, hconf⟩ := step_of_hostConforms h
    obtain ⟨t, ht, htconf⟩ := ih u hconf
    exact ⟨t, (run_succ hu n).trans ht, htconf⟩

end Sys2Proof.Machine

/-! PROOFS. O45: messages on B64D follow each other (60_exceptions.md R190; 70_reset_and_hazards.md R205, R207,
R209). -/

namespace Sys2Proof.Machine

/-- Inside the counter envelope a report from the reset state writes only B64D's streams (R207). -/
theorem reportB64d_of_lt {s : State} {d : Decoded} (hs : s.b64d = .reset)
    (h : d.result.count < 2 ^ s.params.cntW) :
    s.reportB64d d = { s with sinks := { s.sinks with
      b64d_out := s.sinks.b64d_out ++ d.out, b64d_res := s.sinks.b64d_res ++ [d.result] } } := by
  have hcount : ((s.emitB64d d.out).setB64d (.between d.result)).b64d.d_count <
      2 ^ ((s.emitB64d d.out).setB64d (.between d.result)).params.cntW := h
  rw [State.reportB64d, emitResultB64d_of_lt hcount, ← hs]
  rfl

/-- A message from the reset state reports its decode, whatever came before it (R190, R205). -/
theorem runCommands_message_of_reset {s : State} (hs : s.b64d = .reset) (m : List Sym) :
    runCommands (message .b64d m) s = .next (s.reportB64d (b64dec s.params.justify m)) :=
  runCommands_message_b64d (g := []) m hs .nil

/-- Settles O45: by induction on the messages, since each leaves the reset state for the next. -/
theorem b64dMessagesFollowEachOther : Obligations.B64dMessagesFollowEachOther := by
  unfold Obligations.B64dMessagesFollowEachOther
  intro s ms hs henv
  induction ms generalizing s with
  | nil => simp
  | cons m ms ih =>
    obtain ⟨hm, hms⟩ := List.forall_mem_cons.1 henv
    rw [← b64dec_count] at hm
    rw [List.map_cons, List.flatten_cons, runCommands_append _ _ _ _ (runCommands_message_of_reset hs m),
      ih (s.reportB64d _) rfl hms, reportB64d_of_lt hs hm]
    simp

end Sys2Proof.Machine

/-! PROOFS. O56: which error a DATA command enters, and when (60_exceptions.md R182 to R184, R188). -/

namespace Sys2Proof.Machine

/-! ### B64D (41_b64_decoder.md R127, R133) -/

/-- An accumulated symbol is never malformed, and enters an error when it is the fourth and leaves fewer
than two valid ones (R183). -/
theorem accumulate_cause_iff {s : State} (hnone : s.b64d.d_cause = .none) (acc : Group) (v : Nat) :
    (s.accumulate acc v).b64d.d_cause ≠ .malformedChar ∧
    ((s.accumulate acc v).b64d.d_cause = .insufficientGroup ↔ s.b64d.d_pos = 3#2 ∧ v < 2) := by
  rcases accumulate_cases acc v s with ⟨hp, he⟩ | ⟨hp, he⟩
  · by_cases hv : v < 2
    · simp [he, hp, State.closeGroup, closeGroup_eq, hv]
    · simp [he, hp, State.closeGroup, closeGroup_eq, hv, hnone]
  · simp [he, hp, hnone]

/-- The cause a symbol leaves in a decoder that had none, by the symbol's class (R182, R183). -/
theorem b64dSymbol_cause_iff {s : State} (hnone : s.b64d.d_cause = .none) (c : Class64) :
    ((s.b64dSymbol c).b64d.d_cause = .malformedChar ↔ c = .invalid) ∧
    ((s.b64dSymbol c).b64d.d_cause = .insufficientGroup ↔
      s.b64d.d_pos = 3#2 ∧ ((c = .pad ∧ s.b64d.d_nvalid.toNat < 2) ∨
        (∃ x, c = .alpha x) ∧ s.b64d.d_nvalid.toNat + 1 < 2)) := by
  cases c with
  | ws => simp [State.b64dSymbol, hnone]
  | invalid => simp [State.b64dSymbol, State.closeGroup, closeGroup_eq]
  | pad => simpa [State.b64dSymbol] using accumulate_cause_iff hnone _ _
  | alpha x =>
    simpa [State.b64dSymbol] using
      accumulate_cause_iff hnone (accumAlpha s.b64d.d_acc x) (s.b64d.d_nvalid.toNat + 1)

/-! ### HEXD (43_hex_decoder.md R163, R168) -/

/-- The cause a symbol leaves in a running decoder: a pair is judged at its second symbol (R182, R184). -/
theorem exec_hexdData_cause {s t : State} {a : Sym} (hinv : s.hexd.Inv) (hf : s.hexd.h_fail = false)
    (h : exec (.hexdData a) s = .next t) : t.hexd.h_cause =
      if s.hexd.h_phase = true ∧ (s.hexd.h_hi_ok = false ∨ ascNib a = none) then .malformedChar
      else .none := by
  obtain ⟨hfc, -⟩ := hinv
  have hnone : s.hexd.h_cause = .none := hfc.1 hf
  cases hp : s.hexd.h_phase with
  | false =>
    obtain ⟨-, -, -, hres⟩ := hold_regs (ascNib a) s.hexd
    rw [exec_hexdData_first a hf hp] at h
    cases h
    exact (congrArg ResultRecord.cause hres).trans hnone
  | true =>
    rw [exec_hexdData_second a hf hp] at h
    cases h
    rcases completePair_cases (ascNib a) s with ⟨n, hok, ha, he⟩ | ⟨hbad, he⟩ <;> rw [he]
    · simp [hok, ha, hnone]
    · simp [hbad]

/-- Settles O56: the cause by the symbol's class and by the pair, and the flag from the invariant of the
registers that the command leaves. -/
theorem errorsAreEnteredExactlyWhen : Obligations.ErrorsAreEnteredExactlyWhen := by
  unfold Obligations.ErrorsAreEnteredExactlyWhen
  intro s a hinv
  obtain ⟨-, hd, hh⟩ := hinv
  refine ⟨fun hf => ?_, fun hf => ?_⟩
  · obtain ⟨-, -, hfc, -⟩ := id hd
    obtain ⟨hmal, hins⟩ := b64dSymbol_cause_iff (hfc.1 hf) (class64 a)
    obtain ⟨-, -, hfc', -⟩ := inv_b64dSymbol hd hf (class64 a)
    exact ⟨_, exec_b64dData_running hf, hmal, hins, by rw [ne_eq, ← hfc', Bool.not_eq_false]⟩
  · obtain ⟨t, ht⟩ := exec_isNext (.hexdData a) s
    obtain ⟨hfc', -⟩ := exec_keeps_hexd_inv hh ht
    have hflag : t.hexd.h_fail = true ↔ t.hexd.h_cause ≠ .none := by rw [ne_eq, ← hfc', Bool.not_eq_false]
    refine ⟨t, ht, ?_⟩
    rw [hflag, exec_hexdData_cause hh hf ht]
    split
    · next hbad => simp [hbad]
    · next hok => simp [hok]

end Sys2Proof.Machine

/-! PROOFS. O59, O10, O11, O23: RESET, the idle step, messages left open, and END outside the counter envelope
(70_reset_and_hazards.md R200 to R204, R207; log entries 3, 7). -/

namespace Sys2Proof.Machine

/-! ### O10, O11: the steps that execute no command (R200, R201, R204) -/

theorem step_reset {s : State} {rest : List HostInput} (h : s.input = .reset :: rest) :
    step s = .next (s.setInput rest).applyReset := by
  rw [step, h]

/-- Settles O10: the reset values are zeros, and nothing but registers is written. -/
theorem resetInputClearsEveryRegister : Obligations.ResetInputClearsEveryRegister := by
  unfold Obligations.ResetInputClearsEveryRegister
  intro s rest h
  exact step_reset h

/-- Settles O11: the case of an empty input list in `step`. -/
theorem stepIdlesWithoutInput : Obligations.StepIdlesWithoutInput := by
  unfold Obligations.StepIdlesWithoutInput
  intro s h
  rw [step, h]

/-! ### O59: only a decoder's END reports (R202) -/

/-- A result stream that only grows, and not in length, is the same stream. -/
theorem exec_b64d_res_eq {i : Instr} (hi : i ≠ .b64dEnd) {s t : State} (h : exec i s = .next t) :
    t.sinks.b64d_res = s.sinks.b64d_res := by
  have hgrow := (updatesOnly_of_exec_eq h).sinks_continuedBy.b64d_res
  exact (hgrow.eq_of_length (by rw [exec_b64d_res_length h, if_neg hi, Nat.add_zero])).symm

theorem exec_hexd_res_eq {i : Instr} (hi : i ≠ .hexdEnd) {s t : State} (h : exec i s = .next t) :
    t.sinks.hexd_res = s.sinks.hexd_res := by
  have hgrow := (updatesOnly_of_exec_eq h).sinks_continuedBy.hexd_res
  exact (hgrow.eq_of_length (by rw [exec_hexd_res_length h, if_neg hi, Nat.add_zero])).symm

theorem runCommands_b64d_res_eq {is : List Instr} (hn : .b64dEnd ∉ is) {s t : State}
    (h : runCommands is s = .next t) : t.sinks.b64d_res = s.sinks.b64d_res :=
  runCommands_invariant (P := fun u => u.sinks.b64d_res = s.sinks.b64d_res)
    (fun _ hi _ _ hu he => (exec_b64d_res_eq (ne_of_mem_of_not_mem hi hn) he).trans hu) rfl h

theorem runCommands_hexd_res_eq {is : List Instr} (hn : .hexdEnd ∉ is) {s t : State}
    (h : runCommands is s = .next t) : t.sinks.hexd_res = s.sinks.hexd_res :=
  runCommands_invariant (P := fun u => u.sinks.hexd_res = s.sinks.hexd_res)
    (fun _ hi _ _ hu he => (exec_hexd_res_eq (ne_of_mem_of_not_mem hi hn) he).trans hu) rfl h

/-- Settles O59: no command of the run reports, so the run does not; RESET then writes registers alone. -/
theorem resetAbandonsOpenMessages : Obligations.ResetAbandonsOpenMessages := by
  unfold Obligations.ResetAbandonsOpenMessages
  intro is s rest hd hh
  obtain ⟨t, ht⟩ := runCommands_isNext is s
  exact ⟨t, ht, runCommands_b64d_res_eq hd ht, runCommands_hexd_res_eq hh ht,
    step_reset (s := t.setInput (.reset :: rest)) rfl⟩

/-! ### O23: END whatever the count (R207; 41_b64_decoder.md R134; 43_hex_decoder.md R169) -/

/-- B64D's END in every state: its bytes, the record with the count `reportedCount` gives, and its
registers cleared; the model's free index aside, nothing else changes. -/
theorem exec_b64dEnd (s : State) : exec .b64dEnd s = .next
    { s with
      b64d := .reset
      freeD := nextFree s.params.cntW s.closeLastGroup.b64d.d_count s.freeD
      sinks := { s.sinks with
        b64d_out := s.closeLastGroup.sinks.b64d_out
        b64d_res := s.sinks.b64d_res ++
          [{ fail := s.closeLastGroup.b64d.d_fail, cause := s.closeLastGroup.b64d.d_cause,
             count := reportedCount s.params.cntW s.closeLastGroup.b64d.d_count
               (Config.freeCountB64d s.freeD) }] } } := by
  obtain ⟨vs, r, hup⟩ := closeLastGroup_eq_update s
  have hexec : exec .b64dEnd s = .next (s.closeLastGroup.emitResultB64d.setB64d .reset) := rfl
  rw [hexec, hup]
  rfl

/-- Settles O23: the count an END reports has `CNT_W` bits, inside the envelope or not. -/
theorem endOutsideTheEnvelopeLeavesOnlyCountOpen :
    Obligations.EndOutsideTheEnvelopeLeavesOnlyCountOpen := by
  unfold Obligations.EndOutsideTheEnvelopeLeavesOnlyCountOpen
  intro s
  exact ⟨⟨_, _, reportedCount_lt _ _ _, exec_b64dEnd s⟩, ⟨_, _, reportedCount_lt _ _ _, exec_hexdEnd s⟩⟩

end Sys2Proof.Machine
